-- ==== Sys2Proof/Word.lean ====
section
/-! DEFINITION. The two word types of the machine (rule R6: `XLEN8` is 8, `XLEN16` is 16) and text.
Arithmetic on them is `BitVec` arithmetic: modulo 2^8 on bytes, modulo 2^16 on words (rule R10). -/

namespace Sys2Proof

/-- Eight bits: a general register, a memory or IO cell, an opcode, an immediate `d8` (rule R6). -/
abbrev Byte := BitVec 8

/-- Sixteen bits: PC, SP, a memory address, a register pair, an immediate `imm16` (rule R6). -/
abbrev Word := BitVec 16

/-- Text as the lexer reads it: a sequence of characters (rules R275, R276). -/
abbrev Text := List Char

end Sys2Proof
end

