-- ==== Sys2Proof/Machine/Bits.lean ====
section
/-! DEFINITION. Byte order and bit fields: how a word is made of two bytes (rules R24, R58, R59)
and the sub-fields of an opcode byte (rule R82). -/

namespace Sys2Proof

/-- `v[7:0]`, the byte a 16-bit access keeps at the lower address (rules R58, R59). -/
def loByte (w : Word) : Byte := w.extractLsb' 0 8

/-- `v[15:8]`, the byte a 16-bit access keeps at the higher address (rules R58, R59). -/
def hiByte (w : Word) : Byte := w.extractLsb' 8 8

/-- `{hi, lo}`: the word whose high byte is `hi` (rules R8, R24). -/
def joinBytes (hi lo : Byte) : Word := hi ++ lo

/-- `sss`, bits 2:0 of an opcode (rule R82). -/
def fieldSss (op : Byte) : BitVec 3 := op.extractLsb' 0 3

/-- `ddd` (and `ccc`, `nnn`, `aaa`), bits 5:3 of an opcode (rule R82). -/
def fieldDdd (op : Byte) : BitVec 3 := op.extractLsb' 3 3

/-- `pp`, bits 5:4 of an opcode (rule R82). -/
def fieldPp (op : Byte) : BitVec 2 := op.extractLsb' 4 2

end Sys2Proof
end

