-- ==== Sys2Proof/Syntax.lean ====
section
/-! DEFINITION. The instruction set as syntax: one constructor of `Instr` for each of the 80 rows of
the opcode table (rules R2, R86), with the operands the row's format gives it (rules R81, R82). -/

namespace Sys2Proof

/-- The operand a 3-bit register code selects (rule R23); `m` is the memory byte at address HL. -/
inductive Reg8
  | b | c | d | e | h | l | m | a
  deriving DecidableEq, Repr

/-- The operand a 2-bit pair code selects for LXI, INX, DCX and DAD (rule R25). -/
inductive Pair
  | bc | de | hl | sp
  deriving DecidableEq, Repr

/-- The pairs that STAX and LDAX have: codes 0 and 1 only (rule R25). -/
inductive IndexPair
  | bc | de
  deriving DecidableEq, Repr

/-- The operand a 2-bit pair code selects for PUSH and POP, code 3 being PSW (rule R25). -/
inductive StackPair
  | bc | de | hl | psw
  deriving DecidableEq, Repr

/-- The eight conditions of the conditional jumps, calls and returns (rule R201). -/
inductive Cond
  | nz | z | nc | c | po | pe | p | m
  deriving DecidableEq, Repr

/-- An instruction. `dst` is a destination, `src` a source, `p` a pair, `v` an immediate, `addr` an
absolute address, `port` a port number, `n` a restart number. -/
inductive Instr
  -- data transfer (40_data_transfer.md)
  | mov (dst src : Reg8)
  | mvi (dst : Reg8) (v : Byte)
  | lxi (p : Pair) (v : Word)
  | stax (p : IndexPair)
  | ldax (p : IndexPair)
  | sta (addr : Word)
  | lda (addr : Word)
  | shld (addr : Word)
  | lhld (addr : Word)
  | xchg
  -- stack (41_stack.md)
  | push (p : StackPair)
  | pop (p : StackPair)
  | xthl
  | sphl
  -- arithmetic (42_arithmetic.md)
  | add (src : Reg8)
  | adc (src : Reg8)
  | sub (src : Reg8)
  | sbb (src : Reg8)
  | adi (v : Byte)
  | aci (v : Byte)
  | sui (v : Byte)
  | sbi (v : Byte)
  | inr (dst : Reg8)
  | dcr (dst : Reg8)
  | inx (p : Pair)
  | dcx (p : Pair)
  | dad (p : Pair)
  | daa
  -- logical, compare, rotate, flags (43_logical_rotate.md)
  | ana (src : Reg8)
  | xra (src : Reg8)
  | ora (src : Reg8)
  | cmp (src : Reg8)
  | ani (v : Byte)
  | xri (v : Byte)
  | ori (v : Byte)
  | cpi (v : Byte)
  | rlc
  | rrc
  | ral
  | rar
  | cma
  | stc
  | cmc
  -- control transfer (44_control_transfer.md)
  | jmp (addr : Word)
  | jnz (addr : Word)
  | jz (addr : Word)
  | jnc (addr : Word)
  | jc (addr : Word)
  | jpo (addr : Word)
  | jpe (addr : Word)
  | jp (addr : Word)
  | jm (addr : Word)
  | call (addr : Word)
  | cnz (addr : Word)
  | cz (addr : Word)
  | cnc (addr : Word)
  | cc (addr : Word)
  | cpo (addr : Word)
  | cpe (addr : Word)
  | cp (addr : Word)
  | cm (addr : Word)
  | ret
  | rnz
  | rz
  | rnc
  | rc
  | rpo
  | rpe
  | rp
  | rm
  | rst (n : BitVec 3)
  | pchl
  -- input/output and machine control (45_io_machine_control.md)
  | in_ (port : Byte)
  | out (port : Byte)
  | nop
  | hlt
  | ei
  | di
  | rim
  | sim
  deriving DecidableEq, Repr

end Sys2Proof
end

