-- ==== Sys2Proof/WellFormed.lean ====
section
/-! DEFINITION. Which terms of `Instr` are instructions. The operand types already shut out pair
codes an instruction does not have; one restriction is left (rules R86, R111). -/

namespace Sys2Proof

/-- `MOV M,M` is no instruction: its byte, 0x76, is HLT (rules R86, R111). -/
def Instr.wf (i : Instr) : Bool := i != .mov .m .m

end Sys2Proof
end

