-- ==== Sys2Proof/Decode.lean ====
section
/-! DEFINITION. The binary level: the decoder, total on every byte list and rejecting by name (rules
R81 to R87, R96, R98, R99), and after it the encoder of an instruction's bytes (rules R86, R100). -/

namespace Sys2Proof

/-! ### Operand codes (rules R23, R25, R201) -/

/-- The operand of a 3-bit register code (rule R23). -/
def reg8OfCode (code : BitVec 3) : Reg8 :=
  match code.toNat with
  | 0 => .b
  | 1 => .c
  | 2 => .d
  | 3 => .e
  | 4 => .h
  | 5 => .l
  | 6 => .m
  | _ => .a

/-- The operand of a 2-bit pair code for LXI, INX, DCX, DAD (rule R25). -/
def pairOfCode (code : BitVec 2) : Pair :=
  match code.toNat with
  | 0 => .bc
  | 1 => .de
  | 2 => .hl
  | _ => .sp

/-- The operand of a 2-bit pair code for PUSH and POP (rule R25). -/
def stackPairOfCode (code : BitVec 2) : StackPair :=
  match code.toNat with
  | 0 => .bc
  | 1 => .de
  | 2 => .hl
  | _ => .psw

/-- The operand of the one-bit pair field of STAX and LDAX, bit 4 (rules R25, R86). -/
def indexPairOfBit (bit : Bool) : IndexPair := if bit then .de else .bc

/-! ### The opcode map as mask and pattern rows (rule R86) -/

/-- The three instruction formats (rule R81): no operand byte, `d8`, or `imm16` low byte first. -/
inductive Format
  | f1 | f2 | f3
  deriving DecidableEq, Repr

/-- Length in bytes of an instruction of a format (rule R81). -/
def Format.length : Format → Nat
  | .f1 => 1
  | .f2 => 2
  | .f3 => 3

/-- One line of the opcode map (rule R86): an opcode byte `op` belongs to it when
`op &&& mask = pattern`; `build` reads the operands from the opcode, the byte `d8` and the word
`imm16`, and ignores those its format does not have. -/
structure OpcodeRow where
  mask : Byte
  pattern : Byte
  format : Format
  build : Byte → Byte → Word → Instr

/-- `op` is one of the row's opcode bytes (rule R86). -/
def OpcodeRow.selects (row : OpcodeRow) (op : Byte) : Bool := op &&& row.mask == row.pattern

/-- Data transfer, with HLT before MOV, whose pattern would otherwise take 0x76 (rule R98). -/
def dataTransferRows : List OpcodeRow :=
  [ ⟨0xFF, 0x76, .f1, fun _ _ _ => .hlt⟩,
    ⟨0xC0, 0x40, .f1, fun op _ _ => .mov (reg8OfCode (fieldDdd op)) (reg8OfCode (fieldSss op))⟩,
    ⟨0xC7, 0x06, .f2, fun op d8 _ => .mvi (reg8OfCode (fieldDdd op)) d8⟩,
    ⟨0xCF, 0x01, .f3, fun op _ imm => .lxi (pairOfCode (fieldPp op)) imm⟩,
    ⟨0xEF, 0x02, .f1, fun op _ _ => .stax (indexPairOfBit (op.getLsbD 4))⟩,
    ⟨0xEF, 0x0A, .f1, fun op _ _ => .ldax (indexPairOfBit (op.getLsbD 4))⟩,
    ⟨0xFF, 0x32, .f3, fun _ _ imm => .sta imm⟩,
    ⟨0xFF, 0x3A, .f3, fun _ _ imm => .lda imm⟩,
    ⟨0xFF, 0x22, .f3, fun _ _ imm => .shld imm⟩,
    ⟨0xFF, 0x2A, .f3, fun _ _ imm => .lhld imm⟩,
    ⟨0xFF, 0xEB, .f1, fun _ _ _ => .xchg⟩ ]

def stackRows : List OpcodeRow :=
  [ ⟨0xCF, 0xC5, .f1, fun op _ _ => .push (stackPairOfCode (fieldPp op))⟩,
    ⟨0xCF, 0xC1, .f1, fun op _ _ => .pop (stackPairOfCode (fieldPp op))⟩,
    ⟨0xFF, 0xE3, .f1, fun _ _ _ => .xthl⟩,
    ⟨0xFF, 0xF9, .f1, fun _ _ _ => .sphl⟩ ]

def arithmeticRows : List OpcodeRow :=
  [ ⟨0xF8, 0x80, .f1, fun op _ _ => .add (reg8OfCode (fieldSss op))⟩,
    ⟨0xF8, 0x88, .f1, fun op _ _ => .adc (reg8OfCode (fieldSss op))⟩,
    ⟨0xF8, 0x90, .f1, fun op _ _ => .sub (reg8OfCode (fieldSss op))⟩,
    ⟨0xF8, 0x98, .f1, fun op _ _ => .sbb (reg8OfCode (fieldSss op))⟩,
    ⟨0xFF, 0xC6, .f2, fun _ d8 _ => .adi d8⟩,
    ⟨0xFF, 0xCE, .f2, fun _ d8 _ => .aci d8⟩,
    ⟨0xFF, 0xD6, .f2, fun _ d8 _ => .sui d8⟩,
    ⟨0xFF, 0xDE, .f2, fun _ d8 _ => .sbi d8⟩,
    ⟨0xC7, 0x04, .f1, fun op _ _ => .inr (reg8OfCode (fieldDdd op))⟩,
    ⟨0xC7, 0x05, .f1, fun op _ _ => .dcr (reg8OfCode (fieldDdd op))⟩,
    ⟨0xCF, 0x03, .f1, fun op _ _ => .inx (pairOfCode (fieldPp op))⟩,
    ⟨0xCF, 0x0B, .f1, fun op _ _ => .dcx (pairOfCode (fieldPp op))⟩,
    ⟨0xCF, 0x09, .f1, fun op _ _ => .dad (pairOfCode (fieldPp op))⟩,
    ⟨0xFF, 0x27, .f1, fun _ _ _ => .daa⟩ ]

def logicalRows : List OpcodeRow :=
  [ ⟨0xF8, 0xA0, .f1, fun op _ _ => .ana (reg8OfCode (fieldSss op))⟩,
    ⟨0xF8, 0xA8, .f1, fun op _ _ => .xra (reg8OfCode (fieldSss op))⟩,
    ⟨0xF8, 0xB0, .f1, fun op _ _ => .ora (reg8OfCode (fieldSss op))⟩,
    ⟨0xF8, 0xB8, .f1, fun op _ _ => .cmp (reg8OfCode (fieldSss op))⟩,
    ⟨0xFF, 0xE6, .f2, fun _ d8 _ => .ani d8⟩,
    ⟨0xFF, 0xEE, .f2, fun _ d8 _ => .xri d8⟩,
    ⟨0xFF, 0xF6, .f2, fun _ d8 _ => .ori d8⟩,
    ⟨0xFF, 0xFE, .f2, fun _ d8 _ => .cpi d8⟩,
    ⟨0xFF, 0x07, .f1, fun _ _ _ => .rlc⟩,
    ⟨0xFF, 0x0F, .f1, fun _ _ _ => .rrc⟩,
    ⟨0xFF, 0x17, .f1, fun _ _ _ => .ral⟩,
    ⟨0xFF, 0x1F, .f1, fun _ _ _ => .rar⟩,
    ⟨0xFF, 0x2F, .f1, fun _ _ _ => .cma⟩,
    ⟨0xFF, 0x37, .f1, fun _ _ _ => .stc⟩,
    ⟨0xFF, 0x3F, .f1, fun _ _ _ => .cmc⟩ ]

def jumpRows : List OpcodeRow :=
  [ ⟨0xFF, 0xC3, .f3, fun _ _ imm => .jmp imm⟩,
    ⟨0xFF, 0xC2, .f3, fun _ _ imm => .jnz imm⟩,
    ⟨0xFF, 0xCA, .f3, fun _ _ imm => .jz imm⟩,
    ⟨0xFF, 0xD2, .f3, fun _ _ imm => .jnc imm⟩,
    ⟨0xFF, 0xDA, .f3, fun _ _ imm => .jc imm⟩,
    ⟨0xFF, 0xE2, .f3, fun _ _ imm => .jpo imm⟩,
    ⟨0xFF, 0xEA, .f3, fun _ _ imm => .jpe imm⟩,
    ⟨0xFF, 0xF2, .f3, fun _ _ imm => .jp imm⟩,
    ⟨0xFF, 0xFA, .f3, fun _ _ imm => .jm imm⟩,
    ⟨0xFF, 0xE9, .f1, fun _ _ _ => .pchl⟩ ]

def callRows : List OpcodeRow :=
  [ ⟨0xFF, 0xCD, .f3, fun _ _ imm => .call imm⟩,
    ⟨0xFF, 0xC4, .f3, fun _ _ imm => .cnz imm⟩,
    ⟨0xFF, 0xCC, .f3, fun _ _ imm => .cz imm⟩,
    ⟨0xFF, 0xD4, .f3, fun _ _ imm => .cnc imm⟩,
    ⟨0xFF, 0xDC, .f3, fun _ _ imm => .cc imm⟩,
    ⟨0xFF, 0xE4, .f3, fun _ _ imm => .cpo imm⟩,
    ⟨0xFF, 0xEC, .f3, fun _ _ imm => .cpe imm⟩,
    ⟨0xFF, 0xF4, .f3, fun _ _ imm => .cp imm⟩,
    ⟨0xFF, 0xFC, .f3, fun _ _ imm => .cm imm⟩,
    ⟨0xC7, 0xC7, .f1, fun op _ _ => .rst (fieldDdd op)⟩ ]

def returnRows : List OpcodeRow :=
  [ ⟨0xFF, 0xC9, .f1, fun _ _ _ => .ret⟩,
    ⟨0xFF, 0xC0, .f1, fun _ _ _ => .rnz⟩,
    ⟨0xFF, 0xC8, .f1, fun _ _ _ => .rz⟩,
    ⟨0xFF, 0xD0, .f1, fun _ _ _ => .rnc⟩,
    ⟨0xFF, 0xD8, .f1, fun _ _ _ => .rc⟩,
    ⟨0xFF, 0xE0, .f1, fun _ _ _ => .rpo⟩,
    ⟨0xFF, 0xE8, .f1, fun _ _ _ => .rpe⟩,
    ⟨0xFF, 0xF0, .f1, fun _ _ _ => .rp⟩,
    ⟨0xFF, 0xF8, .f1, fun _ _ _ => .rm⟩ ]

def ioControlRows : List OpcodeRow :=
  [ ⟨0xFF, 0xDB, .f2, fun _ d8 _ => .in_ d8⟩,
    ⟨0xFF, 0xD3, .f2, fun _ d8 _ => .out d8⟩,
    ⟨0xFF, 0x00, .f1, fun _ _ _ => .nop⟩,
    ⟨0xFF, 0xFB, .f1, fun _ _ _ => .ei⟩,
    ⟨0xFF, 0xF3, .f1, fun _ _ _ => .di⟩,
    ⟨0xFF, 0x20, .f1, fun _ _ _ => .rim⟩,
    ⟨0xFF, 0x30, .f1, fun _ _ _ => .sim⟩ ]

/-- The whole map, 80 rows (rule R86). -/
def opcodeRows : List OpcodeRow :=
  dataTransferRows ++ stackRows ++ arithmeticRows ++ logicalRows ++ jumpRows ++ callRows ++
    returnRows ++ ioControlRows

/-- Decoding an opcode byte: the row it belongs to, or none for one of the ten undefined bytes
(rules R96, R98, R99). -/
def findRow (op : Byte) : Option OpcodeRow := opcodeRows.find? (fun row => row.selects op)

/-! ### The decoder -/

/-- What decoding the head of a byte list gives: an instruction and the bytes after it, or a
rejection by name. -/
inductive Decoded
  /-- The instruction and the rest of the list. -/
  | ok (i : Instr) (rest : List Byte)
  /-- The opcode byte has no handler (rule R96). -/
  | undefinedOpcode (op : Byte)
  /-- The list ends before the instruction does. -/
  | truncated
  deriving DecidableEq, Repr

/-- Decode the first instruction of a byte list (rules R81, R83, R98). -/
def decode (bytes : List Byte) : Decoded :=
  match bytes with
  | [] => .truncated
  | op :: rest =>
    match findRow op with
    | none => .undefinedOpcode op
    | some row =>
      match row.format, rest with
      | .f1, rest => .ok (row.build op 0 0) rest
      | .f2, d8 :: rest => .ok (row.build op d8 0) rest
      | .f3, lo :: hi :: rest => .ok (row.build op 0 (joinBytes hi lo)) rest
      | .f2, [] => .truncated
      | .f3, _ => .truncated

/-- The instruction the decoder reads from a word of the opcode table, bit 0 being the least
significant bit of the first byte; bits at and above `nbits` are 0. -/
def decodeTableWord (nbits w : Nat) : Option Instr :=
  let v : BitVec 24 := BitVec.ofNat 24 (w % 2 ^ nbits)
  match decode [v.extractLsb' 0 8, v.extractLsb' 8 8, v.extractLsb' 16 8] with
  | .ok i _ => some i
  | .undefinedOpcode _ => none
  | .truncated => none

/-! ### The encoder of an instruction's bytes (rule R86 read the other way, rule R100) -/

/-- The 3-bit code of an operand (rule R23), as a byte to be shifted into an opcode. -/
def Reg8.code : Reg8 → Byte
  | .b => 0
  | .c => 1
  | .d => 2
  | .e => 3
  | .h => 4
  | .l => 5
  | .m => 6
  | .a => 7

/-- The 2-bit code of a pair for LXI, INX, DCX, DAD (rule R25). -/
def Pair.code : Pair → Byte
  | .bc => 0
  | .de => 1
  | .hl => 2
  | .sp => 3

/-- The code of a pair for STAX and LDAX (rule R25). -/
def IndexPair.code : IndexPair → Byte
  | .bc => 0
  | .de => 1

/-- The 2-bit code of an operand of PUSH and POP (rule R25). -/
def StackPair.code : StackPair → Byte
  | .bc => 0
  | .de => 1
  | .hl => 2
  | .psw => 3

/-- The opcode byte of an instruction: its base opcode with the operand codes ORed in at bit 0, 3
or 4 (rules R80, R82, R86). -/
def Instr.opcode (i : Instr) : Byte :=
  match i with
  | .mov dst src => 0x40 ||| dst.code <<< 3 ||| src.code
  | .mvi dst _ => 0x06 ||| dst.code <<< 3
  | .lxi p _ => 0x01 ||| p.code <<< 4
  | .stax p => 0x02 ||| p.code <<< 4
  | .ldax p => 0x0A ||| p.code <<< 4
  | .sta _ => 0x32
  | .lda _ => 0x3A
  | .shld _ => 0x22
  | .lhld _ => 0x2A
  | .xchg => 0xEB
  | .push p => 0xC5 ||| p.code <<< 4
  | .pop p => 0xC1 ||| p.code <<< 4
  | .xthl => 0xE3
  | .sphl => 0xF9
  | .add src => 0x80 ||| src.code
  | .adc src => 0x88 ||| src.code
  | .sub src => 0x90 ||| src.code
  | .sbb src => 0x98 ||| src.code
  | .adi _ => 0xC6
  | .aci _ => 0xCE
  | .sui _ => 0xD6
  | .sbi _ => 0xDE
  | .inr dst => 0x04 ||| dst.code <<< 3
  | .dcr dst => 0x05 ||| dst.code <<< 3
  | .inx p => 0x03 ||| p.code <<< 4
  | .dcx p => 0x0B ||| p.code <<< 4
  | .dad p => 0x09 ||| p.code <<< 4
  | .daa => 0x27
  | .ana src => 0xA0 ||| src.code
  | .xra src => 0xA8 ||| src.code
  | .ora src => 0xB0 ||| src.code
  | .cmp src => 0xB8 ||| src.code
  | .ani _ => 0xE6
  | .xri _ => 0xEE
  | .ori _ => 0xF6
  | .cpi _ => 0xFE
  | .rlc => 0x07
  | .rrc => 0x0F
  | .ral => 0x17
  | .rar => 0x1F
  | .cma => 0x2F
  | .stc => 0x37
  | .cmc => 0x3F
  | .jmp _ => 0xC3
  | .jnz _ => 0xC2
  | .jz _ => 0xCA
  | .jnc _ => 0xD2
  | .jc _ => 0xDA
  | .jpo _ => 0xE2
  | .jpe _ => 0xEA
  | .jp _ => 0xF2
  | .jm _ => 0xFA
  | .call _ => 0xCD
  | .cnz _ => 0xC4
  | .cz _ => 0xCC
  | .cnc _ => 0xD4
  | .cc _ => 0xDC
  | .cpo _ => 0xE4
  | .cpe _ => 0xEC
  | .cp _ => 0xF4
  | .cm _ => 0xFC
  | .ret => 0xC9
  | .rnz => 0xC0
  | .rz => 0xC8
  | .rnc => 0xD0
  | .rc => 0xD8
  | .rpo => 0xE0
  | .rpe => 0xE8
  | .rp => 0xF0
  | .rm => 0xF8
  | .rst n => 0xC7 ||| n.setWidth 8 <<< 3
  | .pchl => 0xE9
  | .in_ _ => 0xDB
  | .out _ => 0xD3
  | .nop => 0x00
  | .hlt => 0x76
  | .ei => 0xFB
  | .di => 0xF3
  | .rim => 0x20
  | .sim => 0x30

/-- The two bytes of a 16-bit immediate, low byte first (rules R66, R81). -/
def wordBytes (v : Word) : List Byte := [loByte v, hiByte v]

/-- The bytes after the opcode (rule R81). -/
def Instr.operandBytes (i : Instr) : List Byte :=
  match i with
  | .mvi _ v => [v]
  | .lxi _ v => wordBytes v
  | .sta addr => wordBytes addr
  | .lda addr => wordBytes addr
  | .shld addr => wordBytes addr
  | .lhld addr => wordBytes addr
  | .adi v => [v]
  | .aci v => [v]
  | .sui v => [v]
  | .sbi v => [v]
  | .ani v => [v]
  | .xri v => [v]
  | .ori v => [v]
  | .cpi v => [v]
  | .jmp addr => wordBytes addr
  | .jnz addr => wordBytes addr
  | .jz addr => wordBytes addr
  | .jnc addr => wordBytes addr
  | .jc addr => wordBytes addr
  | .jpo addr => wordBytes addr
  | .jpe addr => wordBytes addr
  | .jp addr => wordBytes addr
  | .jm addr => wordBytes addr
  | .call addr => wordBytes addr
  | .cnz addr => wordBytes addr
  | .cz addr => wordBytes addr
  | .cnc addr => wordBytes addr
  | .cc addr => wordBytes addr
  | .cpo addr => wordBytes addr
  | .cpe addr => wordBytes addr
  | .cp addr => wordBytes addr
  | .cm addr => wordBytes addr
  | .in_ port => [port]
  | .out port => [port]
  | .mov _ _ => []
  | .stax _ => []
  | .ldax _ => []
  | .xchg => []
  | .push _ => []
  | .pop _ => []
  | .xthl => []
  | .sphl => []
  | .add _ => []
  | .adc _ => []
  | .sub _ => []
  | .sbb _ => []
  | .inr _ => []
  | .dcr _ => []
  | .inx _ => []
  | .dcx _ => []
  | .dad _ => []
  | .daa => []
  | .ana _ => []
  | .xra _ => []
  | .ora _ => []
  | .cmp _ => []
  | .rlc => []
  | .rrc => []
  | .ral => []
  | .rar => []
  | .cma => []
  | .stc => []
  | .cmc => []
  | .ret => []
  | .rnz => []
  | .rz => []
  | .rnc => []
  | .rc => []
  | .rpo => []
  | .rpe => []
  | .rp => []
  | .rm => []
  | .rst _ => []
  | .pchl => []
  | .nop => []
  | .hlt => []
  | .ei => []
  | .di => []
  | .rim => []
  | .sim => []

/-- The bytes of an instruction, the opcode at the lowest address (rules R66, R81, R100). -/
def encode (i : Instr) : List Byte := i.opcode :: i.operandBytes

end Sys2Proof
end

