-- ==== Sys2Proof/Config.lean ====
section
/-! DEFINITION. The implementation parameters (rule R6). `CODE_ORIGIN` and `HALT_BOUNDARY` are
named configuration fields with the spec's defaults, as rule R6 asks (log entry 1); so is the choice between
two readings of the encoder's source language (log entry 24).
The spec leaves no value of the machine free (rule R373), so there is no opaque constant here. -/

namespace Sys2Proof

/-- What an implementation fixes (rule R6). Everything that depends on it is written over an
arbitrary `Config` (`executeWith`, `State.launch`, `assembleWith`, …); the fixed names of the model
(`step`, `State.reset`, …) take `config`. -/
structure Config where
  /-- `CODE_ORIGIN`: reset value of PC, load address of a program, first value of the encoder's
  address counter. -/
  codeOrigin : Word := 0xC000
  /-- `HALT_BOUNDARY`: a step that starts with PC at or above it fetches nothing and halts. -/
  haltBoundary : Nat := 0xD000
  /-- Whether the encoder holds its source to the two restrictions of rule R372 that rules R270, R277 and R306
  do not make: no comments, and no label that spells a register name. The spec gives both readings and no
  ruling; the default is that of 49_encoder.md, whose rules R372 says it repeats (DESIGN CHOICE, log entry
  24). -/
  strictSource : Bool := false
  deriving DecidableEq, Repr

/-- The machine of this model: every parameter at the spec's default (rule R6). -/
def config : Config := {}

/-- `MEM_CELLS`: 64 KiB and one guard byte, indices 0x00000 to 0x10000 (rules R6, R52). -/
def memCells : Nat := 0x10001

/-- `IO_CELLS`: 256 ports and one guard byte, indices 0x000 to 0x100 (rules R6, R52). -/
def ioCells : Nat := 0x101

/-- The bound that the encoder's address counter may reach and not pass (rules R300, R316). -/
def addressLimit : Nat := 0x10000

/-- What a cell that nothing has written reads as, in both arrays (rule R53; log entry 3). -/
def fillByte : Byte := 0x00

end Sys2Proof
end

