-- ==== Sys2Proof/Machine/Memory.lean ====
section
/-! DEFINITION. A byte array (the memory array `MEM` or the IO array `IO`, rules R50, R52) as plain
data: the cells whose content differs from `fillByte`, by strictly rising index. -/

namespace Sys2Proof.Machine

/-- A byte array: its cells that do not hold `fillByte`, by rising index. -/
abbrev Memory := List Host.Cell

/-- The content of one cell: `MEM[i]` or `IO[i]` (rules R9, R56, R62). An unlisted cell reads as
`fillByte` (rule R53; log entry 3). -/
def Memory.read (m : Memory) (index : Nat) : Byte :=
  match m with
  | [] => fillByte
  | (k, w) :: rest => if k = index then w else Memory.read rest index

/-- `MEM[i] <- v` or `IO[i] <- v` (rules R57, R62), keeping the canonical form. -/
def Memory.write (m : Memory) (index : Nat) (v : Byte) : Memory :=
  match m with
  | [] => if v = fillByte then [] else [(index, v)]
  | (k, w) :: rest =>
    if index < k then
      if v = fillByte then (k, w) :: rest else (index, v) :: (k, w) :: rest
    else if index = k then
      if v = fillByte then rest else (index, v) :: rest
    else (k, w) :: Memory.write rest index v

/-- Indices rise strictly from `low`, lie below `cells`, and no listed cell holds `fillByte`. -/
def Memory.wfFrom (cells low : Nat) (m : Memory) : Bool :=
  match m with
  | [] => true
  | (k, w) :: rest =>
    decide (low ≤ k) && decide (k < cells) && (w != fillByte) && Memory.wfFrom cells (k + 1) rest

/-- The canonical form of an array of `cells` cells: equal arrays are equal lists. -/
def Memory.wf (cells : Nat) (m : Memory) : Bool := Memory.wfFrom cells 0 m

/-- The array whose cells from `index` on hold `bytes`, in canonical form (rule R343, raw import). -/
def Memory.ofBytes (index : Nat) (bytes : List Byte) : Memory :=
  match bytes with
  | [] => []
  | v :: rest =>
    if v = fillByte then Memory.ofBytes (index + 1) rest
    else (index, v) :: Memory.ofBytes (index + 1) rest

/-- The bytes of `count` cells from `index` on (rule R343, raw export). -/
def Memory.toBytes (m : Memory) (index count : Nat) : List Byte :=
  match count with
  | 0 => []
  | count + 1 => m.read index :: m.toBytes (index + 1) count

/-- Write the bytes in rising index order. -/
def Memory.writeAll (m : Memory) (cells : List Host.Cell) : Memory :=
  match cells with
  | [] => m
  | (k, v) :: rest => (m.write k v).writeAll rest

/-- The cells in which `new` differs from `old`, each with the byte it holds in `old` (rule R346;
log entry 12). -/
def Memory.undoCells (old new : Memory) : List Host.Cell :=
  old.filter (fun cell => new.read cell.1 != cell.2) ++
    (new.filter (fun cell => old.read cell.1 == fillByte)).map (fun cell => (cell.1, fillByte))

end Sys2Proof.Machine
end

