-- ==== Sys2Proof/Machine/State.lean ====
section
/-! DEFINITION. The state of the machine as plain data: the CPU core (rule R20), the two arrays of
the bus (rules R50, R52), and the result the last step reported (the model's own field, log entry 2);
the reasons a step can stop; the state after reset (rules R43, R360). -/

namespace Sys2Proof.Machine

/-- Why the machine stops with an error (rule R333). -/
inductive Fault
  /-- Raised by the step (`State.raiseIllegalOpcode`) when the opcode byte `op` fetched at `addr` is one of
  the ten undefined values (rules R96, R332). Safe: the machine stops where the spec says it does. -/
  | illegalOpcode (addr : Word) (op : Byte)
  /-- Raised by a host operation of `Machine/Bus.lean` whose index lies beyond an array (rules R61,
  R334); no step raises it. Safe: the spec refuses the call too. -/
  | busFault (index : Nat)
  deriving DecidableEq, Repr

/-- Why the model gives an instruction no meaning. -/
inductive Refusal
  /-- Raised only by an arm of `exec` for an instruction that has no meaning yet; there is none now.
  Safe: nothing is claimed of such an instruction. -/
  | notModelled (mnemonic : String)
  deriving DecidableEq, Repr

/-- Why a step halted (rules R330, R331). -/
inductive HaltReason
  /-- The opcode 0x76 was fetched. -/
  | hlt
  /-- PC was at or above the halt boundary at the start of the step. -/
  | boundary
  deriving DecidableEq, Repr

/-- The three-valued result of a step (rule R330). -/
inductive StepResult
  /-- `Continue`, the document's `true`. -/
  | cont
  /-- `Halted(reason)`, the document's `false`. -/
  | halted (reason : HaltReason)
  /-- `Fault(f)`, the document's typed error. -/
  | fault (f : Fault)
  deriving DecidableEq, Repr

/-- The five flags (rules R20, R30), each an independent one-bit cell. -/
structure Flags where
  /-- S, sign. -/
  s : Bool
  /-- Z, zero. -/
  z : Bool
  /-- AC, auxiliary carry. -/
  ac : Bool
  /-- P, parity. -/
  p : Bool
  /-- CY, carry. -/
  cy : Bool
  deriving DecidableEq, Repr

/-- The whole machine: the register file of rule R20, the arrays of rule R50, and the last result. -/
structure State where
  /-- The accumulator A (rule R22). -/
  a : Byte
  b : Byte
  c : Byte
  d : Byte
  e : Byte
  h : Byte
  l : Byte
  /-- The stack pointer SP (rule R29). -/
  sp : Word
  /-- The program counter PC (rule R27). -/
  pc : Word
  /-- S, Z, AC, P, CY (rule R30). -/
  flags : Flags
  /-- `MEM`, indices 0x00000 to 0x10000, the last being the guard byte (rule R52). -/
  mem : Memory
  /-- `IO`, indices 0x000 to 0x100, the last being the guard byte (rule R52). -/
  io : Memory
  /-- The model's own: what the last step reported to the host (rule R330). No instruction and no
  step reads it, so it is no halted latch (rule R40; log entry 2). -/
  lastResult : StepResult
  deriving DecidableEq, Repr

/-- All five flags 0 (rule R42). -/
def Flags.clear : Flags := { s := false, z := false, ac := false, p := false, cy := false }

/-- The state at creation with given contents of the two arrays, for any parameters (rules R53,
R360, R361): PC at the code origin, every register and flag 0 (log entry 4). -/
def State.launch (cfg : Config) (mem io : Memory) : State :=
  { a := 0, b := 0, c := 0, d := 0, e := 0, h := 0, l := 0, sp := 0, pc := cfg.codeOrigin,
    flags := Flags.clear, mem := mem, io := io, lastResult := .cont }

/-- The state after reset (rules R43, R360): every cell of both arrays reads 0x00. -/
def State.reset : State := State.launch config [] []

end Sys2Proof.Machine
end

