-- ==== Sys2Proof/Machine/Flags.lean ====
section
/-! DEFINITION. Every flag computation: the result flags (rule R31), the cores of the arithmetic and
logical instructions (rules R140, R141, R150, R151, R154, R155, R170), the rotates (rules R179 to
R182), the flag byte (rule R33) and the conditions (rule R201). -/

namespace Sys2Proof.Machine

/-- The result of an 8-bit operation and the flags after it. -/
structure AluOut where
  res : Byte
  flags : Flags
  deriving DecidableEq, Repr

/-- The number of 1 bits of a byte (rule R31). -/
def countOnes (v : Byte) : Nat :=
  (v.getLsbD 0).toNat + (v.getLsbD 1).toNat + (v.getLsbD 2).toNat + (v.getLsbD 3).toNat +
    (v.getLsbD 4).toNat + (v.getLsbD 5).toNat + (v.getLsbD 6).toNat + (v.getLsbD 7).toNat

/-- `parity8(v)`: 1 when the count of 1 bits is even (rules R10, R31). -/
def parity8 (v : Byte) : Bool := countOnes v % 2 == 0

/-- `v[3:0]` as a number (rule R8). -/
def lowNibble (v : Byte) : Nat := v.toNat % 16

/-- `SZP(res)` with the given auxiliary carry and carry (rule R31). -/
def szpFlags (res : Byte) (ac cy : Bool) : Flags :=
  { s := res.getLsbD 7, z := res == 0, ac := ac, p := parity8 res, cy := cy }

/-- `AddCore(a, v, cin)` (rule R140): the carries are those of the unreduced sums. -/
def addCore (a v : Byte) (cin : Bool) : AluOut :=
  let sum := a.toNat + v.toNat + cin.toNat
  let res := BitVec.ofNat 8 sum
  let ac := decide (lowNibble a + lowNibble v + cin.toNat > 0xF)
  { res := res, flags := szpFlags res ac (decide (sum > 0xFF)) }

/-- `SubCore(a, v, bin)` (rule R141): CY and AC are borrows, out of bit 7 and out of bit 3. -/
def subCore (a v : Byte) (bin : Bool) : AluOut :=
  let diff : Int := (a.toNat : Int) - (v.toNat : Int) - (bin.toNat : Int)
  let low : Int := (lowNibble a : Int) - (lowNibble v : Int) - (bin.toNat : Int)
  let res := BitVec.ofInt 8 diff
  { res := res, flags := szpFlags res (decide (low < 0)) (decide (diff < 0)) }

/-- `LogicCore(res, ac)` (rule R170): CY is cleared, AC is given. -/
def logicCore (res : Byte) (ac : Bool) : AluOut :=
  { res := res, flags := szpFlags res ac false }

/-- The increment of INR (rule R150): AC is the carry out of bit 3, CY is kept. -/
def incCore (v : Byte) (old : Flags) : AluOut :=
  let res := v + 1
  { res := res, flags := szpFlags res (lowNibble v == 0xF) old.cy }

/-- The decrement of DCR (rule R151): AC is the borrow into bit 3, CY is kept. -/
def decCore (v : Byte) (old : Flags) : AluOut :=
  let res := v - 1
  { res := res, flags := szpFlags res (lowNibble v == 0x0) old.cy }

/-- The unreduced sum of DAD (rule R154). -/
def dadSum (hl v : Word) : Nat := hl.toNat + v.toNat

/-- The flags after DAD: CY is the carry out of bit 15, the others are kept (rule R154). -/
def dadFlags (hl v : Word) (old : Flags) : Flags :=
  { old with cy := decide (dadSum hl v > 0xFFFF) }

/-- The adjustment of DAA (rule R155): both tests use the value of A before. -/
def daaAdjust (a : Byte) (old : Flags) : Byte :=
  (if decide (lowNibble a > 9) || old.ac then 0x06 else 0x00) |||
    (if decide (a.toNat > 0x99) || old.cy then 0x60 else 0x00)

/-- `DAA` (rule R155): CY is never cleared. -/
def daaCore (a : Byte) (old : Flags) : AluOut :=
  let adj := daaAdjust a old
  let res := a + adj
  let ac := decide (lowNibble a + lowNibble adj > 0xF)
  { res := res, flags := szpFlags res ac (decide (a.toNat > 0x99) || old.cy) }

/-- `RLC` (rule R179): bit 7 into bit 0 and into CY. -/
def rlcCore (a : Byte) (old : Flags) : AluOut :=
  { res := a.extractLsb' 0 7 ++ a.extractLsb' 7 1, flags := { old with cy := a.getLsbD 7 } }

/-- `RRC` (rule R180): bit 0 into bit 7 and into CY. -/
def rrcCore (a : Byte) (old : Flags) : AluOut :=
  { res := a.extractLsb' 0 1 ++ a.extractLsb' 1 7, flags := { old with cy := a.getLsbD 0 } }

/-- `RAL` (rule R181): old CY into bit 0, bit 7 into CY. -/
def ralCore (a : Byte) (old : Flags) : AluOut :=
  { res := a.extractLsb' 0 7 ++ BitVec.ofBool old.cy, flags := { old with cy := a.getLsbD 7 } }

/-- `RAR` (rule R182): old CY into bit 7, bit 0 into CY. -/
def rarCore (a : Byte) (old : Flags) : AluOut :=
  { res := BitVec.ofBool old.cy ++ a.extractLsb' 1 7, flags := { old with cy := a.getLsbD 0 } }

/-- `PackF()` (rule R33): `{S, Z, 0, AC, 0, P, 0, CY}`. -/
def packFlags (f : Flags) : Byte :=
  BitVec.ofBool f.s ++ BitVec.ofBool f.z ++ 0#1 ++ BitVec.ofBool f.ac ++ 0#1 ++
    BitVec.ofBool f.p ++ 0#1 ++ BitVec.ofBool f.cy

/-- `UnpackF(b)` (rule R33): bits 5, 3 and 1 are ignored. -/
def unpackFlags (v : Byte) : Flags :=
  { s := v.getLsbD 7, z := v.getLsbD 6, ac := v.getLsbD 4, p := v.getLsbD 2, cy := v.getLsbD 0 }

/-- `Cond(ccc)` (rule R201). -/
def Flags.holds (f : Flags) (cond : Cond) : Bool :=
  match cond with
  | .nz => !f.z
  | .z => f.z
  | .nc => !f.cy
  | .c => f.cy
  | .po => !f.p
  | .pe => f.p
  | .p => !f.s
  | .m => f.s

end Sys2Proof.Machine
end

