-- ==== Sys2Proof/Machine/Ops.lean ====
section
/-! DEFINITION. The named operations over the state: one setter a field, the bus primitives (rules R56
to R62), the instruction-stream reads (rule R63), the stack primitives (rule R64), halting (rule R331)
and raising the one exception (rule R332). -/

namespace Sys2Proof.Machine

/-! ### One setter a field -/

/-- Write A. -/
def State.setA (s : State) (v : Byte) : State := { s with a := v }

/-- Write B. -/
def State.setB (s : State) (v : Byte) : State := { s with b := v }

/-- Write C. -/
def State.setC (s : State) (v : Byte) : State := { s with c := v }

/-- Write D. -/
def State.setD (s : State) (v : Byte) : State := { s with d := v }

/-- Write E. -/
def State.setE (s : State) (v : Byte) : State := { s with e := v }

/-- Write H. -/
def State.setH (s : State) (v : Byte) : State := { s with h := v }

/-- Write L. -/
def State.setL (s : State) (v : Byte) : State := { s with l := v }

/-- Write SP. -/
def State.setSp (s : State) (v : Word) : State := { s with sp := v }

/-- Write PC. -/
def State.setPc (s : State) (v : Word) : State := { s with pc := v }

/-- Write flags. -/
def State.setFlags (s : State) (v : Flags) : State := { s with flags := v }

/-- Write mem. -/
def State.setMem (s : State) (v : Memory) : State := { s with mem := v }

/-- Write IO. -/
def State.setIo (s : State) (v : Memory) : State := { s with io := v }

/-- Write lastResult: what the step reports (log entry 2). -/
def State.setLastResult (s : State) (v : StepResult) : State := { s with lastResult := v }

/-! ### Register pairs as views (rule R24) -/

/-- BC is `{B, C}` (rule R24). -/
def State.bc (s : State) : Word := joinBytes s.b s.c

/-- DE is `{D, E}` (rule R24). -/
def State.de (s : State) : Word := joinBytes s.d s.e

/-- HL is `{H, L}` (rule R24). -/
def State.hl (s : State) : Word := joinBytes s.h s.l

/-- A write of a pair writes both halves (rule R24). -/
def State.setBc (s : State) (v : Word) : State := (s.setB (hiByte v)).setC (loByte v)

/-- A write of a pair writes both halves (rule R24). -/
def State.setDe (s : State) (v : Word) : State := (s.setD (hiByte v)).setE (loByte v)

/-- A write of a pair writes both halves (rule R24). -/
def State.setHl (s : State) (v : Word) : State := (s.setH (hiByte v)).setL (loByte v)

/-! ### Bus primitives (20_memory.md) -/

/-- `MemRead(addr, 1)` (rule R56). -/
def State.memRead8 (s : State) (addr : Word) : Byte := s.mem.read addr.toNat

/-- `MemWrite(addr, 1, v)` (rule R57). -/
def State.memWrite8 (s : State) (addr : Word) (v : Byte) : State :=
  s.setMem (s.mem.write addr.toNat v)

/-- `MemRead(addr, 2)` (rule R58): low byte at the lower index; the index is not wrapped, so at 0xFFFF
the high byte is the guard byte. -/
def State.memRead16 (s : State) (addr : Word) : Word :=
  joinBytes (s.mem.read (addr.toNat + 1)) (s.mem.read addr.toNat)

/-- `MemWrite(addr, 2, v)` (rule R59): low byte first, the index not wrapped. -/
def State.memWrite16 (s : State) (addr : Word) (v : Word) : State :=
  s.setMem ((s.mem.write addr.toNat (loByte v)).write (addr.toNat + 1) (hiByte v))

/-- `IoRead(port)` (rule R62). -/
def State.ioRead (s : State) (port : Byte) : Byte := s.io.read port.toNat

/-- `IoWrite(port, v)` (rule R62). -/
def State.ioWrite (s : State) (port : Byte) (v : Byte) : State := s.setIo (s.io.write port.toNat v)

/-! ### Instruction stream and stack -/

/-- `Fetch8()` (rule R63): the byte read, and the state with PC advanced by 1. -/
def State.fetch8 (s : State) : Byte × State := (s.memRead8 s.pc, s.setPc (s.pc + 1))

/-- `Fetch16()` (rule R63): the word read, and the state with PC advanced by 2. -/
def State.fetch16 (s : State) : Word × State := (s.memRead16 s.pc, s.setPc (s.pc + 2))

/-- `Push16(v)` (rule R64): SP moves down by 2 before the store. -/
def State.push16 (s : State) (v : Word) : State := (s.setSp (s.sp - 2)).memWrite16 (s.sp - 2) v

/-- `Pop16()` (rule R64): the word read, and the state with SP moved up by 2. -/
def State.pop16 (s : State) : Word × State := (s.memRead16 s.sp, s.setSp (s.sp + 2))

/-! ### How a step ends (rules R330 to R332) -/

/-- How a step ends: the outcome the host interface sees, and the state the machine is left in, which
a fault leaves too (rules R330, R332, R338). -/
structure StepEnd where
  outcome : Host.Outcome State Fault Refusal
  left : State
  deriving Repr

/-- `halt(reason)` (rules R10, R331): a result of the step, which the host finds in `lastResult`. -/
def State.halt (s : State) (reason : HaltReason) : State := s.setLastResult (.halted reason)

/-- `raise IllegalOpcode(addr, op)` (rules R332, R338), `s` being the state after the opcode fetch. Nothing
is saved, no mode is switched and control goes nowhere: the step ends with the fault and leaves `s`. -/
def State.raiseIllegalOpcode (s : State) (addr : Word) (op : Byte) : StepEnd :=
  { outcome := .fault (.illegalOpcode addr op),
    left := s.setLastResult (.fault (.illegalOpcode addr op)) }

end Sys2Proof.Machine
end

