-- ==== Sys2Proof/Machine/Operands.lean ====
section
/-! DEFINITION. Every operand form (rules R23, R25, R121) and the operations the instruction families
share: writing an ALU result, and the three kinds of control transfer (44_control_transfer.md). -/

namespace Sys2Proof.Machine

/-- `r8[c]` (rule R23): a register, or the memory byte at HL. -/
def State.readReg8 (s : State) (r : Reg8) : Byte :=
  match r with
  | .b => s.b
  | .c => s.c
  | .d => s.d
  | .e => s.e
  | .h => s.h
  | .l => s.l
  | .m => s.memRead8 s.hl
  | .a => s.a

/-- `r8[c] <- v` (rule R23). -/
def State.writeReg8 (s : State) (r : Reg8) (v : Byte) : State :=
  match r with
  | .b => s.setB v
  | .c => s.setC v
  | .d => s.setD v
  | .e => s.setE v
  | .h => s.setH v
  | .l => s.setL v
  | .m => s.memWrite8 s.hl v
  | .a => s.setA v

/-- `rp[p]` for LXI, INX, DCX, DAD (rule R25). -/
def State.readPair (s : State) (p : Pair) : Word :=
  match p with
  | .bc => s.bc
  | .de => s.de
  | .hl => s.hl
  | .sp => s.sp

/-- `rp[p] <- v` for LXI, INX, DCX (rule R25). -/
def State.writePair (s : State) (p : Pair) (v : Word) : State :=
  match p with
  | .bc => s.setBc v
  | .de => s.setDe v
  | .hl => s.setHl v
  | .sp => s.setSp v

/-- `rp[p]` for STAX and LDAX (rule R25). -/
def State.readIndexPair (s : State) (p : IndexPair) : Word :=
  match p with
  | .bc => s.bc
  | .de => s.de

/-- PSW is `{A, PackF()}` (rule R33). -/
def State.psw (s : State) : Word := joinBytes s.a (packFlags s.flags)

/-- Load A and the flags from a PSW word (rules R33, R132). -/
def State.setPsw (s : State) (v : Word) : State :=
  (s.setA (hiByte v)).setFlags (unpackFlags (loByte v))

/-- The word PUSH stores (rule R131). -/
def State.readStackPair (s : State) (p : StackPair) : Word :=
  match p with
  | .bc => s.bc
  | .de => s.de
  | .hl => s.hl
  | .psw => s.psw

/-- Where POP puts the word it read (rule R132). -/
def State.writeStackPair (s : State) (p : StackPair) (v : Word) : State :=
  match p with
  | .bc => s.setBc v
  | .de => s.setDe v
  | .hl => s.setHl v
  | .psw => s.setPsw v

/-- `A <- res` with the flags of the operation (rules R140, R141, R155, R170). -/
def State.setAlu (s : State) (out : AluOut) : State := (s.setA out.res).setFlags out.flags

/-- Jump to `target` if `taken`, else fall through (rules R200, R203). -/
def State.jumpIf (s : State) (taken : Bool) (target : Word) : State :=
  if taken then s.setPc target else s

/-- Push PC, which is the address of the next instruction, and go to `target` (rules R211, R231). -/
def State.callTo (s : State) (target : Word) : State := (s.push16 s.pc).setPc target

/-- Call `target` if `taken`, else fall through (rules R200, R212). -/
def State.callIf (s : State) (taken : Bool) (target : Word) : State :=
  if taken then s.callTo target else s

/-- `PC <- Pop16()` (rule R220). -/
def State.returnFrom (s : State) : State :=
  let (target, s') := s.pop16
  s'.setPc target

/-- Return if `taken`, else fall through (rules R200, R221). -/
def State.returnIf (s : State) (taken : Bool) : State :=
  if taken then s.returnFrom else s

end Sys2Proof.Machine
end

