-- ==== Sys2Proof/Machine/Arithmetic.lean ====
section
/-! DEFINITION. The arithmetic instructions (42_arithmetic.md). None traps; results wrap (rule R156). -/

namespace Sys2Proof.Machine

/-- ADD s (rule R142). -/
def execAdd (src : Reg8) (s : State) : Host.Outcome State Fault Refusal :=
  .next (s.setAlu (addCore s.a (s.readReg8 src) false))

/-- ADC s (rule R143): CY is the carry-in. -/
def execAdc (src : Reg8) (s : State) : Host.Outcome State Fault Refusal :=
  .next (s.setAlu (addCore s.a (s.readReg8 src) s.flags.cy))

/-- SUB s (rule R144). -/
def execSub (src : Reg8) (s : State) : Host.Outcome State Fault Refusal :=
  .next (s.setAlu (subCore s.a (s.readReg8 src) false))

/-- SBB s (rule R145): CY is the borrow-in. -/
def execSbb (src : Reg8) (s : State) : Host.Outcome State Fault Refusal :=
  .next (s.setAlu (subCore s.a (s.readReg8 src) s.flags.cy))

/-- ADI d8 (rule R146). -/
def execAdi (v : Byte) (s : State) : Host.Outcome State Fault Refusal :=
  .next (s.setAlu (addCore s.a v false))

/-- ACI d8 (rule R147). -/
def execAci (v : Byte) (s : State) : Host.Outcome State Fault Refusal :=
  .next (s.setAlu (addCore s.a v s.flags.cy))

/-- SUI d8 (rule R148). -/
def execSui (v : Byte) (s : State) : Host.Outcome State Fault Refusal :=
  .next (s.setAlu (subCore s.a v false))

/-- SBI d8 (rule R149). -/
def execSbi (v : Byte) (s : State) : Host.Outcome State Fault Refusal :=
  .next (s.setAlu (subCore s.a v s.flags.cy))

/-- INR d (rule R150): the flags are written alike for a register and for M. -/
def execInr (dst : Reg8) (s : State) : Host.Outcome State Fault Refusal :=
  let out := incCore (s.readReg8 dst) s.flags
  .next ((s.writeReg8 dst out.res).setFlags out.flags)

/-- DCR d (rule R151). -/
def execDcr (dst : Reg8) (s : State) : Host.Outcome State Fault Refusal :=
  let out := decCore (s.readReg8 dst) s.flags
  .next ((s.writeReg8 dst out.res).setFlags out.flags)

/-- INX rp (rule R152). -/
def execInx (p : Pair) (s : State) : Host.Outcome State Fault Refusal :=
  .next (s.writePair p (s.readPair p + 1))

/-- DCX rp (rule R153). -/
def execDcx (p : Pair) (s : State) : Host.Outcome State Fault Refusal :=
  .next (s.writePair p (s.readPair p - 1))

/-- DAD rp (rule R154). -/
def execDad (p : Pair) (s : State) : Host.Outcome State Fault Refusal :=
  .next ((s.setHl (BitVec.ofNat 16 (dadSum s.hl (s.readPair p)))).setFlags
    (dadFlags s.hl (s.readPair p) s.flags))

/-- DAA (rule R155). -/
def execDaa (s : State) : Host.Outcome State Fault Refusal :=
  .next (s.setAlu (daaCore s.a s.flags))

end Sys2Proof.Machine
end

