-- ==== Sys2Proof/Machine/Control.lean ====
section
/-! DEFINITION. The control transfer instructions (44_control_transfer.md). In every meaning PC is already
the address of the next instruction (rule R27); no flag and no 8-bit register is written (rule R200). -/

namespace Sys2Proof.Machine

/-- JMP a16 (rule R202). -/
def execJmp (addr : Word) (s : State) : Host.Outcome State Fault Refusal :=
  .next (s.setPc addr)

/-- JNZ a16 (rule R203). -/
def execJnz (addr : Word) (s : State) : Host.Outcome State Fault Refusal :=
  .next (s.jumpIf (s.flags.holds .nz) addr)

/-- JZ a16 (rule R204). -/
def execJz (addr : Word) (s : State) : Host.Outcome State Fault Refusal :=
  .next (s.jumpIf (s.flags.holds .z) addr)

/-- JNC a16 (rule R205). -/
def execJnc (addr : Word) (s : State) : Host.Outcome State Fault Refusal :=
  .next (s.jumpIf (s.flags.holds .nc) addr)

/-- JC a16 (rule R206). -/
def execJc (addr : Word) (s : State) : Host.Outcome State Fault Refusal :=
  .next (s.jumpIf (s.flags.holds .c) addr)

/-- JPO a16 (rule R207). -/
def execJpo (addr : Word) (s : State) : Host.Outcome State Fault Refusal :=
  .next (s.jumpIf (s.flags.holds .po) addr)

/-- JPE a16 (rule R208). -/
def execJpe (addr : Word) (s : State) : Host.Outcome State Fault Refusal :=
  .next (s.jumpIf (s.flags.holds .pe) addr)

/-- JP a16 (rule R209). -/
def execJp (addr : Word) (s : State) : Host.Outcome State Fault Refusal :=
  .next (s.jumpIf (s.flags.holds .p) addr)

/-- JM a16 (rule R210). -/
def execJm (addr : Word) (s : State) : Host.Outcome State Fault Refusal :=
  .next (s.jumpIf (s.flags.holds .m) addr)

/-- CALL a16 (rule R211). -/
def execCall (addr : Word) (s : State) : Host.Outcome State Fault Refusal :=
  .next (s.callTo addr)

/-- CNZ a16 (rule R212). -/
def execCnz (addr : Word) (s : State) : Host.Outcome State Fault Refusal :=
  .next (s.callIf (s.flags.holds .nz) addr)

/-- CZ a16 (rule R213). -/
def execCz (addr : Word) (s : State) : Host.Outcome State Fault Refusal :=
  .next (s.callIf (s.flags.holds .z) addr)

/-- CNC a16 (rule R214). -/
def execCnc (addr : Word) (s : State) : Host.Outcome State Fault Refusal :=
  .next (s.callIf (s.flags.holds .nc) addr)

/-- CC a16 (rule R215). -/
def execCc (addr : Word) (s : State) : Host.Outcome State Fault Refusal :=
  .next (s.callIf (s.flags.holds .c) addr)

/-- CPO a16 (rule R216). -/
def execCpo (addr : Word) (s : State) : Host.Outcome State Fault Refusal :=
  .next (s.callIf (s.flags.holds .po) addr)

/-- CPE a16 (rule R217). -/
def execCpe (addr : Word) (s : State) : Host.Outcome State Fault Refusal :=
  .next (s.callIf (s.flags.holds .pe) addr)

/-- CP a16 (rule R218). -/
def execCp (addr : Word) (s : State) : Host.Outcome State Fault Refusal :=
  .next (s.callIf (s.flags.holds .p) addr)

/-- CM a16 (rule R219). -/
def execCm (addr : Word) (s : State) : Host.Outcome State Fault Refusal :=
  .next (s.callIf (s.flags.holds .m) addr)

/-- RET (rule R220). -/
def execRet (s : State) : Host.Outcome State Fault Refusal :=
  .next s.returnFrom

/-- RNZ (rule R221). -/
def execRnz (s : State) : Host.Outcome State Fault Refusal :=
  .next (s.returnIf (s.flags.holds .nz))

/-- RZ (rule R222). -/
def execRz (s : State) : Host.Outcome State Fault Refusal :=
  .next (s.returnIf (s.flags.holds .z))

/-- RNC (rule R223). -/
def execRnc (s : State) : Host.Outcome State Fault Refusal :=
  .next (s.returnIf (s.flags.holds .nc))

/-- RC (rule R224). -/
def execRc (s : State) : Host.Outcome State Fault Refusal :=
  .next (s.returnIf (s.flags.holds .c))

/-- RPO (rule R225). -/
def execRpo (s : State) : Host.Outcome State Fault Refusal :=
  .next (s.returnIf (s.flags.holds .po))

/-- RPE (rule R226). -/
def execRpe (s : State) : Host.Outcome State Fault Refusal :=
  .next (s.returnIf (s.flags.holds .pe))

/-- RP (rule R227). -/
def execRp (s : State) : Host.Outcome State Fault Refusal :=
  .next (s.returnIf (s.flags.holds .p))

/-- RM (rule R228). -/
def execRm (s : State) : Host.Outcome State Fault Refusal :=
  .next (s.returnIf (s.flags.holds .m))

/-- RST n (rule R231): a one-byte call of address `8 * n`. -/
def execRst (n : BitVec 3) (s : State) : Host.Outcome State Fault Refusal :=
  .next (s.callTo (n.setWidth 16 * 8))

/-- PCHL (rule R232). -/
def execPchl (s : State) : Host.Outcome State Fault Refusal :=
  .next (s.setPc s.hl)

end Sys2Proof.Machine
end

