-- ==== Sys2Proof/Machine/DataTransfer.lean ====
section
/-! DEFINITION. The data transfer instructions (40_data_transfer.md). In every meaning PC is already the
address of the byte after the instruction (rule R27), and no flag is written (rule R110). -/

namespace Sys2Proof.Machine

/-- MOV d, s (rule R111): the source is read before the destination is written. -/
def execMov (dst src : Reg8) (s : State) : Host.Outcome State Fault Refusal :=
  .next (s.writeReg8 dst (s.readReg8 src))

/-- MVI d, d8 (rule R112). -/
def execMvi (dst : Reg8) (v : Byte) (s : State) : Host.Outcome State Fault Refusal :=
  .next (s.writeReg8 dst v)

/-- LXI rp, d16 (rule R113). -/
def execLxi (p : Pair) (v : Word) (s : State) : Host.Outcome State Fault Refusal :=
  .next (s.writePair p v)

/-- STAX rp (rule R114). -/
def execStax (p : IndexPair) (s : State) : Host.Outcome State Fault Refusal :=
  .next (s.memWrite8 (s.readIndexPair p) s.a)

/-- LDAX rp (rule R115). -/
def execLdax (p : IndexPair) (s : State) : Host.Outcome State Fault Refusal :=
  .next (s.setA (s.memRead8 (s.readIndexPair p)))

/-- STA a16 (rule R116). -/
def execSta (addr : Word) (s : State) : Host.Outcome State Fault Refusal :=
  .next (s.memWrite8 addr s.a)

/-- LDA a16 (rule R117). -/
def execLda (addr : Word) (s : State) : Host.Outcome State Fault Refusal :=
  .next (s.setA (s.memRead8 addr))

/-- SHLD a16 (rule R118): L at `addr`, H at `addr + 1`. -/
def execShld (addr : Word) (s : State) : Host.Outcome State Fault Refusal :=
  .next (s.memWrite16 addr s.hl)

/-- LHLD a16 (rule R119): L from `addr`, H from `addr + 1`. -/
def execLhld (addr : Word) (s : State) : Host.Outcome State Fault Refusal :=
  .next (s.setHl (s.memRead16 addr))

/-- XCHG (rule R120): HL and DE change places. -/
def execXchg (s : State) : Host.Outcome State Fault Refusal :=
  .next ((s.setHl s.de).setDe s.hl)

end Sys2Proof.Machine
end

