-- ==== Sys2Proof/Machine/IoControl.lean ====
section
/-! DEFINITION. The input/output and machine control instructions (45_io_machine_control.md). -/

namespace Sys2Proof.Machine

/-- IN d8 (rule R251). -/
def execIn (port : Byte) (s : State) : Host.Outcome State Fault Refusal :=
  .next (s.setA (s.ioRead port))

/-- OUT d8 (rule R252). -/
def execOut (port : Byte) (s : State) : Host.Outcome State Fault Refusal :=
  .next (s.ioWrite port s.a)

/-- NOP (rule R253). -/
def execNop (s : State) : Host.Outcome State Fault Refusal := .next s

/-- HLT (rule R254): the step reports `Halted(Hlt)`; PC, already past the opcode, stays (log entry 2). -/
def execHlt (s : State) : Host.Outcome State Fault Refusal := .next (s.halt .hlt)

/-- EI (rule R256): inert. -/
def execEi (s : State) : Host.Outcome State Fault Refusal := .next s

/-- DI (rule R257): inert. -/
def execDi (s : State) : Host.Outcome State Fault Refusal := .next s

/-- RIM (rule R258): inert; A keeps its value. -/
def execRim (s : State) : Host.Outcome State Fault Refusal := .next s

/-- SIM (rule R259): inert. -/
def execSim (s : State) : Host.Outcome State Fault Refusal := .next s

end Sys2Proof.Machine
end

