-- ==== Sys2Proof/Machine/Logical.lean ====
section
/-! DEFINITION. The logical, compare, rotate and flag instructions (43_logical_rotate.md). -/

namespace Sys2Proof.Machine

/-- ANA s (rule R171). -/
def execAna (src : Reg8) (s : State) : Host.Outcome State Fault Refusal :=
  .next (s.setAlu (logicCore (s.a &&& s.readReg8 src) true))

/-- XRA s (rule R172). -/
def execXra (src : Reg8) (s : State) : Host.Outcome State Fault Refusal :=
  .next (s.setAlu (logicCore (s.a ^^^ s.readReg8 src) false))

/-- ORA s (rule R173). -/
def execOra (src : Reg8) (s : State) : Host.Outcome State Fault Refusal :=
  .next (s.setAlu (logicCore (s.a ||| s.readReg8 src) false))

/-- CMP s (rule R174): the flags of SUB; A is not written. -/
def execCmp (src : Reg8) (s : State) : Host.Outcome State Fault Refusal :=
  .next (s.setFlags (subCore s.a (s.readReg8 src) false).flags)

/-- ANI d8 (rule R175). -/
def execAni (v : Byte) (s : State) : Host.Outcome State Fault Refusal :=
  .next (s.setAlu (logicCore (s.a &&& v) true))

/-- XRI d8 (rule R176). -/
def execXri (v : Byte) (s : State) : Host.Outcome State Fault Refusal :=
  .next (s.setAlu (logicCore (s.a ^^^ v) false))

/-- ORI d8 (rule R177). -/
def execOri (v : Byte) (s : State) : Host.Outcome State Fault Refusal :=
  .next (s.setAlu (logicCore (s.a ||| v) false))

/-- CPI d8 (rule R178): the flags of SUI; A is not written. -/
def execCpi (v : Byte) (s : State) : Host.Outcome State Fault Refusal :=
  .next (s.setFlags (subCore s.a v false).flags)

/-- RLC (rule R179). -/
def execRlc (s : State) : Host.Outcome State Fault Refusal :=
  .next (s.setAlu (rlcCore s.a s.flags))

/-- RRC (rule R180). -/
def execRrc (s : State) : Host.Outcome State Fault Refusal :=
  .next (s.setAlu (rrcCore s.a s.flags))

/-- RAL (rule R181). -/
def execRal (s : State) : Host.Outcome State Fault Refusal :=
  .next (s.setAlu (ralCore s.a s.flags))

/-- RAR (rule R182). -/
def execRar (s : State) : Host.Outcome State Fault Refusal :=
  .next (s.setAlu (rarCore s.a s.flags))

/-- CMA (rule R183): no flag. -/
def execCma (s : State) : Host.Outcome State Fault Refusal :=
  .next (s.setA (s.a ^^^ 0xFF))

/-- STC (rule R184). -/
def execStc (s : State) : Host.Outcome State Fault Refusal :=
  .next (s.setFlags { s.flags with cy := true })

/-- CMC (rule R185). -/
def execCmc (s : State) : Host.Outcome State Fault Refusal :=
  .next (s.setFlags { s.flags with cy := !s.flags.cy })

end Sys2Proof.Machine
end

