-- ==== Sys2Proof/Machine/Stack.lean ====
section
/-! DEFINITION. The stack instructions (41_stack.md): every transfer is one 16-bit little-endian access and
SP moves by 2 (rule R130). -/

namespace Sys2Proof.Machine

/-- PUSH rp (rule R131). -/
def execPush (p : StackPair) (s : State) : Host.Outcome State Fault Refusal :=
  .next (s.push16 (s.readStackPair p))

/-- POP rp (rule R132). -/
def execPop (p : StackPair) (s : State) : Host.Outcome State Fault Refusal :=
  let (v, s') := s.pop16
  .next (s'.writeStackPair p v)

/-- XTHL (rule R133): the read completes before the write; SP is unchanged. -/
def execXthl (s : State) : Host.Outcome State Fault Refusal :=
  .next ((s.memWrite16 s.sp s.hl).setHl (s.memRead16 s.sp))

/-- SPHL (rule R134). -/
def execSphl (s : State) : Host.Outcome State Fault Refusal :=
  .next (s.setSp s.hl)

end Sys2Proof.Machine
end

