-- ==== Sys2Proof/Machine/Execute.lean ====
section
/-! DEFINITION. One step of the core as rule R330 gives it: the boundary test, the opcode fetch, the
decoding, the operand fetch and the instruction. -/

namespace Sys2Proof.Machine

/-- Read the operand bytes of an instruction whose opcode `op` has been fetched (rules R63, R83, R99):
the instruction, and the state with PC past its last byte. -/
def State.fetchOperands (s : State) (row : OpcodeRow) (op : Byte) : Instr × State :=
  match row.format with
  | .f1 => (row.build op 0 0, s)
  | .f2 =>
    let (d8, s') := s.fetch8
    (row.build op d8 0, s')
  | .f3 =>
    let (imm, s') := s.fetch16
    (row.build op 0 imm, s')

/-- How a step ends whose instruction answered `outcome` in the state `s`. -/
def StepEnd.ofOutcome (outcome : Host.Outcome State Fault Refusal) (s : State) : StepEnd :=
  match outcome with
  | .next t => { outcome := .next t, left := t }
  | .fault f => { outcome := .fault f, left := s.setLastResult (.fault f) }
  | .refused r => { outcome := .refused r, left := s }

/-- `Step()` of rule R330, for any parameters. HLT is decoded before MOV, so its test (step 3 of the rule)
is the meaning of the instruction HLT. -/
def executeWith (cfg : Config) (s : State) : StepEnd :=
  if cfg.haltBoundary ≤ s.pc.toNat then
    { outcome := .next (s.halt .boundary), left := s.halt .boundary }
  else
    let (op, s₁) := (s.setLastResult .cont).fetch8
    match findRow op with
    | none => s₁.raiseIllegalOpcode s.pc op
    | some row =>
      let (i, s₂) := s₁.fetchOperands row op
      StepEnd.ofOutcome (exec i s₂) s₂

/-- One step of this machine, with the state it leaves (rule R330). -/
def execute (s : State) : StepEnd := executeWith config s

/-- `execute(bus) -> bool`: true when the machine should keep running (rule R330, decision D41). -/
def continues (s : State) : Bool := decide ((execute s).left.lastResult = .cont)

/-- A run (rule R335): steps until the first whose result is not `Continue`, at most `fuel` of them; none
when the fuel ends first. -/
def runToEnd (fuel : Nat) (s : State) : Option StepEnd :=
  match fuel with
  | 0 => none
  | fuel + 1 =>
    let e := execute s
    if e.left.lastResult = .cont then runToEnd fuel e.left else some e

/-- Put the three bytes of an instruction where the next step fetches: the opcode at PC, the operand
bytes where `Fetch8` and `Fetch16` read them. -/
def State.placeInstruction (s : State) (op lo hi : Byte) : State :=
  let operand := (s.pc + 1).toNat
  s.setMem (((s.mem.write s.pc.toNat op).write operand lo).write (operand + 1) hi)

end Sys2Proof.Machine
end

