-- ==== Sys2Proof/Machine/Step.lean ====
section
/-! DEFINITION. The step of the machine, and placing an instruction where the next step fetches it. -/

namespace Sys2Proof.Machine

/-- One step (rule R330). A step that halts answers the state it leaves, with `lastResult` saying that it
halted (log entry 2); a step that meets an undefined opcode answers the fault. -/
def step (s : State) : Host.Outcome State Fault Refusal := (execute s).outcome

/-- `s` with the instruction of the opcode-table word `w` stored where `step` fetches next (log entry 10).
A PC at or above the halt boundary fetches nothing (rule R330), so it is first set to the code origin. -/
def State.withFetchWord (s : State) (nbits w : Nat) : State :=
  let v : BitVec 24 := BitVec.ofNat 24 (w % 2 ^ nbits)
  let s' := if config.haltBoundary ≤ s.pc.toNat then s.setPc config.codeOrigin else s
  s'.placeInstruction (v.extractLsb' 0 8) (v.extractLsb' 8 8) (v.extractLsb' 16 8)

end Sys2Proof.Machine
end

