-- ==== Sys2Proof/Machine/Lexer.lean ====
section
/-! DEFINITION. The first stage of the instruction encoder (49_encoder.md): errors (rules R310, R311), tokens
(rule R275), line splitting (rule R276), scanning a line (rule R277) and classifying a buffer (rule R279). -/

namespace Sys2Proof.Machine

/-- A source position, 1-based (rule R275). -/
structure Pos where
  line : Nat
  col : Nat
  deriving DecidableEq, Repr

/-- The two classes of error (rule R310). -/
inductive ErrorClass
  | syntaxError | semanticError
  deriving DecidableEq, Repr

/-- Every way the encoder fails (rule R311). -/
inductive ErrorKind
  | invalidCharacter
  | emptyHexLiteral
  | unexpectedLiteral
  | statementExpected
  | commaExpected
  | registerExpected
  | pairExpected
  | literal8Expected
  | literal16Expected
  | restartNumberExpected
  | endOfLineExpected
  | missingTerminator
  | unknownInstruction
  | mnemonicAsLabel
  /-- Raised under `strictSource` alone: rule R372 forbids such a label, rule R306 does not (log entry 24). -/
  | registerAsLabel
  | unknownRegister
  | movMM
  | illegalPair
  | valueOutOfRange
  | programTooLarge
  /-- A semantic error that the interface keeps distinguishable (rule R305). -/
  | labelNotDefined (name : Text)
  deriving DecidableEq, Repr

/-- The class of a failure (rule R311). -/
def ErrorKind.errorClass (kind : ErrorKind) : ErrorClass :=
  match kind with
  | .invalidCharacter => .syntaxError
  | .emptyHexLiteral => .syntaxError
  | .unexpectedLiteral => .syntaxError
  | .statementExpected => .syntaxError
  | .commaExpected => .syntaxError
  | .registerExpected => .syntaxError
  | .pairExpected => .syntaxError
  | .literal8Expected => .syntaxError
  | .literal16Expected => .syntaxError
  | .restartNumberExpected => .syntaxError
  | .endOfLineExpected => .syntaxError
  | .missingTerminator => .syntaxError
  | .unknownInstruction => .semanticError
  | .mnemonicAsLabel => .semanticError
  | .registerAsLabel => .semanticError
  | .unknownRegister => .semanticError
  | .movMM => .semanticError
  | .illegalPair => .semanticError
  | .valueOutOfRange => .semanticError
  | .programTooLarge => .semanticError
  | .labelNotDefined _ => .semanticError

/-- An error value: what failed, and where if known (rule R310). The message text is not normative. -/
structure EncoderError where
  kind : ErrorKind
  pos : Option Pos
  deriving DecidableEq, Repr

/-- A token (rule R275). -/
inductive Token
  | name (text : Text)
  | hexLiteral (text : Text)
  | comma
  | colon
  | newLine
  deriving DecidableEq, Repr

/-- A token and the position of its first character; for `newLine`, just past its line (rule R275). -/
structure PosToken where
  tok : Token
  pos : Pos
  deriving DecidableEq, Repr

/-! ### Characters and literals -/

/-- Whether `c` lies between two characters. -/
def charIn (lo hi c : Char) : Bool := decide (lo.toNat ≤ c.toNat) && decide (c.toNat ≤ hi.toNat)

/-- An ASCII letter or digit (rule R277). -/
def isAlphanumeric (c : Char) : Bool := charIn 'A' 'Z' c || charIn 'a' 'z' c || charIn '0' '9' c

/-- Space, tab, carriage return, vertical tab, form feed (rule R277). -/
def isWhitespace (c : Char) : Bool :=
  c.toNat == 0x20 || c.toNat == 0x09 || c.toNat == 0x0D || c.toNat == 0x0B || c.toNat == 0x0C

/-- The lowercase form of an ASCII letter; any other character is kept (rule R274). -/
def lowerChar (c : Char) : Char := if charIn 'A' 'Z' c then Char.ofNat (c.toNat + 32) else c

/-- The lowercase form of a text (rule R274). -/
def lowercase (t : Text) : Text := t.map lowerChar

/-- The value of a hex digit, in either letter case (rules R274, R279). -/
def hexDigit (c : Char) : Option Nat :=
  if charIn '0' '9' c then some (c.toNat - 48)
  else if charIn 'a' 'f' c then some (c.toNat - 87)
  else if charIn 'A' 'F' c then some (c.toNat - 55)
  else none

/-- Read hex digits in base 16, `value` being what stands before them; none if one is no hex digit. -/
def readHex (value : Nat) (digits : Text) : Option Nat :=
  match digits with
  | [] => some value
  | c :: rest =>
    match hexDigit c with
    | some n => readHex (value * 16 + n) rest
    | none => none

/-- The value of `0x<digits>`, if the text has that form with at least one digit (rule R279). -/
def prefixedValue (t : Text) : Option Nat :=
  match t with
  | '0' :: x :: c :: rest => if lowerChar x = 'x' then readHex 0 (c :: rest) else none
  | _ => none

/-- The value of `<digits>h`, if the text has that form with at least one digit (rule R279). -/
def suffixedValue (t : Text) : Option Nat :=
  match t.reverse with
  | h :: c :: rest => if lowerChar h = 'h' then readHex 0 (c :: rest).reverse else none
  | _ => none

/-- `hexval(text)` (rule R283): strip the prefix or the suffix and read the rest in base 16. -/
def hexVal (t : Text) : Option Nat :=
  match prefixedValue t with
  | some v => some v
  | none => suffixedValue t

/-- A value that fits 16 bits (rule R279). -/
def fits16 (v : Option Nat) : Bool :=
  match v with
  | some n => decide (n ≤ 0xFFFF)
  | none => false

/-- Classify a buffer (rule R279): a wider literal is a `name` by the document's "otherwise". -/
def classify (buf : Text) : Except ErrorKind Token :=
  if lowercase buf = ['0', 'x'] then .error .emptyHexLiteral
  else if fits16 (prefixedValue buf) || fits16 (suffixedValue buf) then .ok (.hexLiteral buf)
  else .ok (.name buf)

/-! ### Lines -/

/-- Cut the source at each line feed; a carriage return just before it belongs to the terminator (rule
R276). -/
def splitLines (source : Text) : List Text :=
  match source with
  | [] => []
  | '\n' :: rest => [] :: splitLines rest
  | '\r' :: '\n' :: rest => [] :: splitLines rest
  | c :: rest =>
    match splitLines rest with
    | [] => [[c]]
    | l :: ls => (c :: l) :: ls

/-- `flush()` (rule R277): the buffer's token, positioned at its first character, if it is not empty. -/
def flush (line start : Nat) (buf : Text) : Except EncoderError (List PosToken) :=
  match buf with
  | [] => .ok []
  | _ =>
    match classify buf with
    | .ok tok => .ok [{ tok := tok, pos := { line := line, col := start } }]
    | .error kind => .error { kind := kind, pos := some { line := line, col := start } }

/-- Scan the rest of a line from column `col` (rule R277): `buf` is the pending buffer and `start` the
column of its first character. `;` and `//` start a comment, as rules R270 and R277 say; the language without
comments of rule R372 is `tokenizeWith` under `strictSource` (log entry 24). -/
def scan (line col start : Nat) (buf : Text) (chars : Text) : Except EncoderError (List PosToken) :=
  match chars with
  | [] => flush line start buf
  | ';' :: _ => flush line start buf
  | '/' :: '/' :: _ => flush line start buf
  | ',' :: rest => do
    let before ← flush line start buf
    let after ← scan line (col + 1) (col + 1) [] rest
    return before ++ { tok := .comma, pos := { line := line, col := col } } :: after
  | ':' :: rest => do
    let before ← flush line start buf
    let after ← scan line (col + 1) (col + 1) [] rest
    return before ++ { tok := .colon, pos := { line := line, col := col } } :: after
  | c :: rest =>
    if isWhitespace c then do
      let before ← flush line start buf
      let after ← scan line (col + 1) (col + 1) [] rest
      return before ++ after
    else if isAlphanumeric c then
      scan line (col + 1) (if buf.isEmpty then col else start) (buf ++ [c]) rest
    else .error { kind := .invalidCharacter, pos := some { line := line, col := col } }

/-- The tokens of one line, ended by `newLine` just past its last character (rules R275, R277). -/
def scanLine (line : Nat) (chars : Text) : Except EncoderError (List PosToken) := do
  let toks ← scan line 1 1 [] chars
  return toks ++ [{ tok := .newLine, pos := { line := line, col := chars.length + 1 } }]

/-- The tokens of the lines from number `line` on; the first error ends the scan (rule R312). -/
def scanLines (line : Nat) (lines : List Text) : Except EncoderError (List PosToken) :=
  match lines with
  | [] => .ok []
  | l :: rest => do
    let toks ← scanLine line l
    let more ← scanLines (line + 1) rest
    return toks ++ more

/-- `tokenize(source)` (rule R275). -/
def tokenize (source : Text) : Except EncoderError (List PosToken) := scanLines 1 (splitLines source)

/-- The characters that start a comment, each made one that no token may hold, in its place. -/
def refuseCommentMarks (source : Text) : Text := source.map (fun c => if c = ';' ∨ c = '/' then '#' else c)

/-- `tokenize(source)` in either reading of the source language: with the comments of rule R277, or with none,
as rule R372 says, so that `;` and `/` are invalid characters like any other (log entry 24). -/
def tokenizeWith (cfg : Config) (source : Text) : Except EncoderError (List PosToken) :=
  tokenize (if cfg.strictSource then refuseCommentMarks source else source)

end Sys2Proof.Machine
end

