-- ==== Sys2Proof/Machine/Mnemonics.lean ====
section
/-! DEFINITION. The read-only tables of the instruction encoder (rules R280 to R282): the mnemonic table with its
80 entries, the register table and the pair table. -/

namespace Sys2Proof.Machine

/-- The states of the encoder's expected-state queue (rule R284). -/
inductive ExpectedState
  | search | comma | colon | sourceRegister | destinationRegister | registerPair
  | immediate8 | immediate16 | rstImmediate | append
  deriving DecidableEq, Repr

/-- An entry of the mnemonic table: the lowercase name, the base opcode, the operand states (rule R280), and
the pair names the mnemonic accepts with their codes (rule R282). -/
structure MnemonicEntry where
  name : Text
  base : Byte
  states : List ExpectedState
  pairs : List (Text × Byte)
  deriving DecidableEq, Repr

/-- The register table (rule R281). -/
def registerTable : List (Text × Byte) :=
  [ (['b'], 0), (['c'], 1), (['d'], 2), (['e'], 3), (['h'], 4), (['l'], 5), (['m'], 6), (['a'], 7) ]

/-- The pair names of lxi, inx, dcx, dad (rule R282). -/
def wordPairs : List (Text × Byte) :=
  [ (['b', 'c'], 0), (['d', 'e'], 1), (['h', 'l'], 2), (['s', 'p'], 3) ]

/-- The pair names of stax and ldax (rule R282). -/
def indexPairs : List (Text × Byte) := [ (['b', 'c'], 0), (['d', 'e'], 1) ]

/-- The pair names of push and pop (rule R282). -/
def stackPairs : List (Text × Byte) :=
  [ (['b', 'c'], 0), (['d', 'e'], 1), (['h', 'l'], 2), (['p', 's', 'w'], 3) ]

/-- Look a key up in a table. -/
def lookupText {α : Type} (table : List (Text × α)) (key : Text) : Option α :=
  match table with
  | [] => none
  | (k, v) :: rest => if k = key then some v else lookupText rest key

/-- Whether a text spells a register or a pair in any letter case (rules R274, R281, R282). -/
def isRegisterName (x : Text) : Bool :=
  (lookupText (registerTable ++ wordPairs ++ stackPairs) (lowercase x)).isSome

/-! ### The names and base opcodes, by operand states (rule R280) -/

/-- No operand: the first part. -/
def plainNames1 : List (Text × Byte) :=
  [ (['n', 'o', 'p'], 0x00),
    (['h', 'l', 't'], 0x76),
    (['r', 'l', 'c'], 0x07),
    (['r', 'r', 'c'], 0x0F),
    (['r', 'a', 'l'], 0x17),
    (['r', 'a', 'r'], 0x1F),
    (['d', 'a', 'a'], 0x27),
    (['c', 'm', 'a'], 0x2F),
    (['s', 't', 'c'], 0x37),
    (['c', 'm', 'c'], 0x3F),
    (['r', 'i', 'm'], 0x20),
    (['s', 'i', 'm'], 0x30),
    (['x', 'c', 'h', 'g'], 0xEB),
    (['x', 't', 'h', 'l'], 0xE3) ]

/-- No operand: the second part. -/
def plainNames2 : List (Text × Byte) :=
  [ (['s', 'p', 'h', 'l'], 0xF9),
    (['p', 'c', 'h', 'l'], 0xE9),
    (['r', 'e', 't'], 0xC9),
    (['r', 'n', 'z'], 0xC0),
    (['r', 'z'], 0xC8),
    (['r', 'n', 'c'], 0xD0),
    (['r', 'c'], 0xD8),
    (['r', 'p', 'o'], 0xE0),
    (['r', 'p', 'e'], 0xE8),
    (['r', 'p'], 0xF0),
    (['r', 'm'], 0xF8),
    (['e', 'i'], 0xFB),
    (['d', 'i'], 0xF3) ]

/-- `Dst`. -/
def incrementNames : List (Text × Byte) :=
  [ (['i', 'n', 'r'], 0x04),
    (['d', 'c', 'r'], 0x05) ]

/-- `Src`. -/
def aluNames : List (Text × Byte) :=
  [ (['a', 'd', 'd'], 0x80),
    (['a', 'd', 'c'], 0x88),
    (['s', 'u', 'b'], 0x90),
    (['s', 'b', 'b'], 0x98),
    (['a', 'n', 'a'], 0xA0),
    (['x', 'r', 'a'], 0xA8),
    (['o', 'r', 'a'], 0xB0),
    (['c', 'm', 'p'], 0xB8) ]

/-- `Pair`, two pairs. -/
def indexPairNames : List (Text × Byte) :=
  [ (['s', 't', 'a', 'x'], 0x02),
    (['l', 'd', 'a', 'x'], 0x0A) ]

/-- `Pair`, with SP. -/
def wordPairNames : List (Text × Byte) :=
  [ (['i', 'n', 'x'], 0x03),
    (['d', 'c', 'x'], 0x0B),
    (['d', 'a', 'd'], 0x09) ]

/-- `Pair`, with PSW. -/
def stackPairNames : List (Text × Byte) :=
  [ (['p', 'u', 's', 'h'], 0xC5),
    (['p', 'o', 'p'], 0xC1) ]

/-- `I8`. -/
def immediate8Names : List (Text × Byte) :=
  [ (['a', 'd', 'i'], 0xC6),
    (['a', 'c', 'i'], 0xCE),
    (['s', 'u', 'i'], 0xD6),
    (['s', 'b', 'i'], 0xDE),
    (['a', 'n', 'i'], 0xE6),
    (['x', 'r', 'i'], 0xEE),
    (['o', 'r', 'i'], 0xF6),
    (['c', 'p', 'i'], 0xFE),
    (['i', 'n'], 0xDB),
    (['o', 'u', 't'], 0xD3) ]

/-- `I16`: the first part. -/
def immediate16Names1 : List (Text × Byte) :=
  [ (['s', 't', 'a'], 0x32),
    (['l', 'd', 'a'], 0x3A),
    (['s', 'h', 'l', 'd'], 0x22),
    (['l', 'h', 'l', 'd'], 0x2A),
    (['j', 'm', 'p'], 0xC3),
    (['j', 'n', 'z'], 0xC2),
    (['j', 'z'], 0xCA),
    (['j', 'n', 'c'], 0xD2),
    (['j', 'c'], 0xDA),
    (['j', 'p', 'o'], 0xE2),
    (['j', 'p', 'e'], 0xEA),
    (['j', 'p'], 0xF2),
    (['j', 'm'], 0xFA) ]

/-- `I16`: the calls. -/
def immediate16Names2 : List (Text × Byte) :=
  [ (['c', 'a', 'l', 'l'], 0xCD),
    (['c', 'n', 'z'], 0xC4),
    (['c', 'z'], 0xCC),
    (['c', 'n', 'c'], 0xD4),
    (['c', 'c'], 0xDC),
    (['c', 'p', 'o'], 0xE4),
    (['c', 'p', 'e'], 0xEC),
    (['c', 'p'], 0xF4),
    (['c', 'm'], 0xFC) ]

/-- The entries of names that share operand states and pair names. -/
def entriesOf (names : List (Text × Byte)) (states : List ExpectedState) (pairs : List (Text × Byte)) :
    List MnemonicEntry :=
  names.map (fun row => { name := row.1, base := row.2, states := states, pairs := pairs })

/-- The mnemonic table, 80 entries, the "microcode ROM" (rule R280). -/
def mnemonicTable : List MnemonicEntry :=
  entriesOf (plainNames1 ++ plainNames2) [] [] ++
    entriesOf [(['m', 'o', 'v'], 0x40)] [.destinationRegister, .comma, .sourceRegister] [] ++
    entriesOf [(['m', 'v', 'i'], 0x06)] [.destinationRegister, .comma, .immediate8] [] ++
    entriesOf incrementNames [.destinationRegister] [] ++
    entriesOf aluNames [.sourceRegister] [] ++
    entriesOf [(['l', 'x', 'i'], 0x01)] [.registerPair, .comma, .immediate16] wordPairs ++
    entriesOf indexPairNames [.registerPair] indexPairs ++
    entriesOf wordPairNames [.registerPair] wordPairs ++
    entriesOf stackPairNames [.registerPair] stackPairs ++
    entriesOf immediate8Names [.immediate8] [] ++
    entriesOf (immediate16Names1 ++ immediate16Names2) [.immediate16] [] ++
    entriesOf [(['r', 's', 't'], 0xC7)] [.rstImmediate] []

/-- Look a name up after lowercasing it (rules R274, R291). -/
def findMnemonic (name : Text) : Option MnemonicEntry :=
  mnemonicTable.find? (fun entry => entry.name == lowercase name)

end Sys2Proof.Machine
end

