-- ==== Sys2Proof/Machine/Assembler.lean ====
section
/-! DEFINITION. The second and third stages of the instruction encoder (49_encoder.md): the state of one call of
`assemble` (rule R284), one step of pass 1 for each token (rules R290 to R302), pass 2 (rule R305) and the
whole encoder (rules R312, R315). -/

namespace Sys2Proof.Machine

/-- The encoder's private state during one call of `assemble` (rule R284). -/
structure EncoderState where
  /-- `Q`: the expected states, front first. -/
  queue : List ExpectedState
  /-- `cur`: the entry of the instruction being assembled. -/
  cur : Option MnemonicEntry
  /-- `acc.op`: the opcode accumulator. -/
  accOp : Byte
  /-- `acc.imm`: the immediate bytes, low byte first. -/
  accImm : List Byte
  /-- `fresh`: true from a mnemonic hit until the next token has been examined. -/
  fresh : Bool
  /-- `buf`: the machine-code buffer. -/
  buf : List Byte
  /-- `addr`: the address counter, an integer. -/
  addr : Nat
  /-- `labels`: the label table, each name once. -/
  labels : List (Text × Word)
  /-- `unres`: the unresolved references, buffer offset and name, in order. -/
  unres : List (Nat × Text)
  deriving DecidableEq, Repr

/-- The state at the start of `assemble` (rule R284). -/
def EncoderState.initial (cfg : Config) : EncoderState :=
  { queue := [.search], cur := none, accOp := 0, accImm := [], fresh := false, buf := [],
    addr := cfg.codeOrigin.toNat, labels := [], unres := [] }

/-- Fail at the offending token (rule R310). -/
def failAt {α : Type} (kind : ErrorKind) (t : PosToken) : Except EncoderError α :=
  .error { kind := kind, pos := some t.pos }

/-- `append` states to the end of `Q`. -/
def EncoderState.expect (s : EncoderState) (states : List ExpectedState) : EncoderState :=
  { s with queue := s.queue ++ states }

/-- Declare a label: insert it, or overwrite an earlier declaration (rules R291, R306). -/
def declareLabel (labels : List (Text × Word)) (name : Text) (v : Word) : List (Text × Word) :=
  labels.filter (fun row => row.1 != name) ++ [(name, v)]

/-! ### One rule for each expected state, the state having been popped -/

/-- State `Search` (rule R291). A label may spell a register or a pair, as rule R306 says; `strictStep` refuses
it where rule R372 is taken at its word (log entry 24). -/
def onSearch (s : EncoderState) (t : PosToken) : Except EncoderError EncoderState :=
  match t.tok with
  | .name x =>
    match findMnemonic x with
    | some entry =>
      .ok ({ s with cur := some entry, accOp := entry.base, accImm := [], fresh := true }.expect
        (entry.states ++ [ExpectedState.append]))
    | none =>
      if s.addr ≥ addressLimit then failAt .valueOutOfRange t
      else .ok ({ s with labels := declareLabel s.labels x (BitVec.ofNat 16 s.addr) }.expect [.colon])
  | .newLine => .ok (s.expect [.search])
  | .hexLiteral _ => failAt .unexpectedLiteral t
  | .comma => failAt .statementExpected t
  | .colon => failAt .statementExpected t

/-- State `Colon` (rule R292). -/
def onColon (s : EncoderState) (t : PosToken) : Except EncoderError EncoderState :=
  match t.tok with
  | .colon => .ok (s.expect [.search])
  | _ => failAt .unknownInstruction t

/-- State `Comma` (rule R293). -/
def onComma (s : EncoderState) (t : PosToken) : Except EncoderError EncoderState :=
  match t.tok with
  | .comma => .ok s
  | _ => failAt .commaExpected t

/-- State `DestinationRegister` (rule R294): the code goes to bit offset 3. -/
def onDestination (s : EncoderState) (t : PosToken) : Except EncoderError EncoderState :=
  match t.tok with
  | .name x =>
    match lookupText registerTable (lowercase x) with
    | some code => .ok { s with accOp := s.accOp ||| code <<< 3 }
    | none => failAt .unknownRegister t
  | _ => failAt .registerExpected t

/-- Whether the instruction being assembled is `mov` (rule R295). -/
def EncoderState.isMov (s : EncoderState) : Bool :=
  match s.cur with
  | some entry => entry.name == ['m', 'o', 'v']
  | none => false

/-- State `SourceRegister` (rule R295): the code goes to bit offset 0; `MOV M,M` is refused. -/
def onSource (s : EncoderState) (t : PosToken) : Except EncoderError EncoderState :=
  match t.tok with
  | .name x =>
    match lookupText registerTable (lowercase x) with
    | some code =>
      let op := s.accOp ||| code
      if s.isMov && op == 0x76 then failAt .movMM t else .ok { s with accOp := op }
    | none => failAt .unknownRegister t
  | _ => failAt .registerExpected t

/-- The pair names the instruction being assembled accepts (rule R282). -/
def EncoderState.acceptedPairs (s : EncoderState) : List (Text × Byte) :=
  match s.cur with
  | some entry => entry.pairs
  | none => []

/-- State `RegisterPair` (rule R296): the code goes to bit offset 4. -/
def onPair (s : EncoderState) (t : PosToken) : Except EncoderError EncoderState :=
  match t.tok with
  | .name x =>
    match lookupText s.acceptedPairs (lowercase x) with
    | some code => .ok { s with accOp := s.accOp ||| code <<< 4 }
    | none => failAt .illegalPair t
  | _ => failAt .pairExpected t

/-- The value of a literal if it is at most `bound`. -/
def hexValUpTo (bound : Nat) (x : Text) : Option Nat :=
  match hexVal x with
  | some v => if v ≤ bound then some v else none
  | none => none

/-- State `Immediate8` (rule R297). -/
def onImmediate8 (s : EncoderState) (t : PosToken) : Except EncoderError EncoderState :=
  match t.tok with
  | .hexLiteral x =>
    match hexValUpTo 0xFF x with
    | some v => .ok { s with accImm := [BitVec.ofNat 8 v] }
    | none => failAt .valueOutOfRange t
  | _ => failAt .literal8Expected t

/-- State `Immediate16` (rule R298): a name is a label reference, resolved in pass 2. -/
def onImmediate16 (s : EncoderState) (t : PosToken) : Except EncoderError EncoderState :=
  match t.tok with
  | .hexLiteral x =>
    match hexValUpTo 0xFFFF x with
    | some v => .ok { s with accImm := [loByte (BitVec.ofNat 16 v), hiByte (BitVec.ofNat 16 v)] }
    | none => failAt .valueOutOfRange t
  | .name x =>
    .ok { s with unres := s.unres ++ [(s.buf.length + 1, x)], accImm := [0x00, 0x00] }
  | _ => failAt .literal16Expected t

/-- State `RstImmediate` (rule R299): the number goes to bit offset 3. -/
def onRst (s : EncoderState) (t : PosToken) : Except EncoderError EncoderState :=
  match t.tok with
  | .hexLiteral x =>
    match hexValUpTo 7 x with
    | some v => .ok { s with accOp := s.accOp ||| BitVec.ofNat 8 v <<< 3 }
    | none => failAt .valueOutOfRange t
  | _ => failAt .restartNumberExpected t

/-- State `Append` (rule R300): commit the instruction's bytes. -/
def onAppend (s : EncoderState) (t : PosToken) : Except EncoderError EncoderState :=
  match t.tok with
  | .newLine =>
    let n := 1 + s.accImm.length
    if s.addr + n > addressLimit then failAt .programTooLarge t
    else
      .ok ({ s with buf := s.buf ++ s.accOp :: s.accImm, addr := s.addr + n, cur := none }.expect
        [.search])
  | _ => failAt .endOfLineExpected t

/-- The rule of an expected state (rules R291 to R300). -/
def onState (st : ExpectedState) (s : EncoderState) (t : PosToken) :
    Except EncoderError EncoderState :=
  match st with
  | .search => onSearch s t
  | .colon => onColon s t
  | .comma => onComma s t
  | .destinationRegister => onDestination s t
  | .sourceRegister => onSource s t
  | .registerPair => onPair s t
  | .immediate8 => onImmediate8 s t
  | .immediate16 => onImmediate16 s t
  | .rstImmediate => onRst s t
  | .append => onAppend s t

/-- One step of pass 1 (rules R290, R302): the check of a mnemonic used as a label, then the rule of the
front of the queue. The queue is never empty when a token arrives (rule R290); were it empty, nothing could
be expected but the end of the input. -/
def passOneStep (s : EncoderState) (t : PosToken) : Except EncoderError EncoderState :=
  if s.fresh && t.tok == .colon then failAt .mnemonicAsLabel t
  else
    match s.queue with
    | [] => failAt .endOfLineExpected t
    | st :: rest => onState st { s with fresh := false, queue := rest } t

/-- Whether the colon `t` ends the declaration of a label that spells a register name: the label declared last. -/
def EncoderState.endsRegisterLabel (s : EncoderState) (t : PosToken) : Bool :=
  s.queue.head? == some .colon && t.tok == .colon && (s.labels.getLast?.map (fun row => isRegisterName row.1)).getD false

/-- One step of pass 1 under rule R372, by which a label must not spell a register name (log entry 24). The
failure is at the colon, like that of a mnemonic used as a label (rule R302). -/
def strictStep (s : EncoderState) (t : PosToken) : Except EncoderError EncoderState :=
  if s.endsRegisterLabel t then failAt .registerAsLabel t else passOneStep s t

/-- One step of pass 1 in either reading of the source language (log entry 24). -/
def passOneStepWith (cfg : Config) (s : EncoderState) (t : PosToken) : Except EncoderError EncoderState :=
  if cfg.strictSource then strictStep s t else passOneStep s t

/-- Pass 1 over the tokens; the first failure ends it (rules R290, R312). -/
def passOneTokens (cfg : Config) (s : EncoderState) (tokens : List PosToken) : Except EncoderError EncoderState :=
  match tokens with
  | [] => .ok s
  | t :: rest =>
    match passOneStepWith cfg s t with
    | .ok s' => passOneTokens cfg s' rest
    | .error e => .error e

/-- Pass 1 (rules R290, R301): it succeeds when the queue is exactly `[Search]` at the end. -/
def passOne (cfg : Config) (tokens : List PosToken) : Except EncoderError EncoderState :=
  match passOneTokens cfg (EncoderState.initial cfg) tokens with
  | .ok s =>
    if s.queue = [.search] then .ok s else .error { kind := .missingTerminator, pos := none }
  | .error e => .error e

/-- Write a resolved address into its two reserved bytes, low byte first (rule R305). -/
def patchWord (buf : List Byte) (off : Nat) (v : Word) : List Byte :=
  (buf.set off (loByte v)).set (off + 1) (hiByte v)

/-- Pass 2 (rule R305): resolve the references in order; the lookup is exact and case-sensitive. -/
def passTwo (labels : List (Text × Word)) (unres : List (Nat × Text)) (buf : List Byte) :
    Except EncoderError (List Byte) :=
  match unres with
  | [] => .ok buf
  | (off, name) :: rest =>
    match lookupText labels name with
    | some v => passTwo labels rest (patchWord buf off v)
    | none => .error { kind := .labelNotDefined name, pos := none }

/-- `assemble(tokens)` for any parameters (rules R312, R315): the final buffer, or the first error. -/
def assembleWith (cfg : Config) (tokens : List PosToken) : Except EncoderError (List Byte) :=
  match passOne cfg tokens with
  | .ok s => passTwo s.labels s.unres s.buf
  | .error e => .error e

/-- `assemble(tokens)` with this machine's parameters. -/
def assemble (tokens : List PosToken) : Except EncoderError (List Byte) := assembleWith config tokens

/-- The encoder from text to bytes, for any parameters (rules R312, R342). -/
def assembleTextWith (cfg : Config) (source : Text) : Except EncoderError (List Byte) :=
  match tokenizeWith cfg source with
  | .ok tokens => assembleWith cfg tokens
  | .error e => .error e

/-- The encoder from text to bytes, with this machine's parameters (rules R312, R342). -/
def assembleText (source : Text) : Except EncoderError (List Byte) := assembleTextWith config source

end Sys2Proof.Machine
end

