-- ==== Sys2Proof/Machine/Bus.lean ====
section
/-! DEFINITION. The bus as the host sees it (20_memory.md): byte and word access in both byte orders to
either array, refused with `BusFault` beyond its end (rules R55, R60, R61, R334), and the raw import and
export of a whole array (rules R53, R343). No instruction uses these (rule R60). -/

namespace Sys2Proof.Machine

/-- The two address spaces (rule R50). -/
inductive Space
  | mem | io
  deriving DecidableEq, Repr

/-- How many cells an array has (rule R52). -/
def Space.cells : Space → Nat
  | .mem => memCells
  | .io => ioCells

/-- The array of a space. -/
def State.array (s : State) (space : Space) : Memory :=
  match space with
  | .mem => s.mem
  | .io => s.io

/-- Replace the array of a space. -/
def State.setArray (s : State) (space : Space) (m : Memory) : State :=
  match space with
  | .mem => s.setMem m
  | .io => s.setIo m

/-- An index beyond the array is refused, never wrapped (rules R52, R61, R334). -/
def busCheck (space : Space) (index : Nat) : Except Fault Unit :=
  if index < space.cells then .ok () else .error (.busFault index)

/-- `get8(index)` (rules R55, R56, R62). -/
def State.busGet8 (s : State) (space : Space) (index : Nat) : Except Fault Byte := do
  busCheck space index
  return (s.array space).read index

/-- `set8(index, v)` (rules R55, R57, R62). -/
def State.busSet8 (s : State) (space : Space) (index : Nat) (v : Byte) : Except Fault State := do
  busCheck space index
  return s.setArray space ((s.array space).write index v)

/-- `get16(index)`, big-endian (rule R60). -/
def State.busGet16 (s : State) (space : Space) (index : Nat) : Except Fault Word := do
  let hi ← s.busGet8 space index
  let lo ← s.busGet8 space (index + 1)
  return joinBytes hi lo

/-- `set16(index, v)`, big-endian (rule R60). -/
def State.busSet16 (s : State) (space : Space) (index : Nat) (v : Word) : Except Fault State := do
  let s₁ ← s.busSet8 space index (hiByte v)
  s₁.busSet8 space (index + 1) (loByte v)

/-- `get16_reverse(index)`, little-endian (rules R55, R58). -/
def State.busGet16Reverse (s : State) (space : Space) (index : Nat) : Except Fault Word := do
  let lo ← s.busGet8 space index
  let hi ← s.busGet8 space (index + 1)
  return joinBytes hi lo

/-- `set16_reverse(index, v)`, little-endian (rules R55, R59). -/
def State.busSet16Reverse (s : State) (space : Space) (index : Nat) (v : Word) :
    Except Fault State := do
  let s₁ ← s.busSet8 space index (loByte v)
  s₁.busSet8 space (index + 1) (hiByte v)

/-- Raw import: the whole array byte for byte, guard byte included (rule R343). -/
def State.rawImport (s : State) (space : Space) (bytes : Vector Byte space.cells) : State :=
  s.setArray space (Memory.ofBytes 0 bytes.toList)

/-- Raw export: the whole array byte for byte, guard byte included (rule R343). -/
def State.rawExport (s : State) (space : Space) : Vector Byte space.cells :=
  Vector.ofFn (fun i => (s.array space).read i.val)

end Sys2Proof.Machine
end

