-- ==== Sys2Proof/Machine/Interface.lean ====
section
/-! DEFINITION. What else the host may do between steps (rules R44, R342, R343): load a program image,
look at registers and flags, and record a step's changes and undo them (rule R346). Setting PC and SP is
`State.setPc` and `State.setSp`; one step is `step`; creation is `State.reset` or `State.launch`. -/

namespace Sys2Proof.Machine

/-- Store bytes at rising memory indices, each by `set8`. -/
def State.storeImage (s : State) (index : Nat) (code : List Byte) : Except Fault State :=
  match code with
  | [] => .ok s
  | v :: rest => do
    let s₁ ← s.busSet8 .mem index v
    s₁.storeImage (index + 1) rest

/-- Load a program image for any parameters: `MEM[CODE_ORIGIN + i] <- code[i]` (rule R342). -/
def State.loadImageWith (cfg : Config) (s : State) (code : List Byte) : Except Fault State :=
  s.storeImage cfg.codeOrigin.toNat code

/-- Load a program image at this machine's code origin (rule R342). -/
def State.loadImage (s : State) (code : List Byte) : Except Fault State :=
  s.loadImageWith config code

/-- Get a register by its 3-bit code; code 6 gives the memory byte at HL (rule R44). -/
def State.registerByCode (s : State) (code : BitVec 3) : Byte := s.readReg8 (reg8OfCode code)

/-- Get a flag by its index: 0 S, 1 Z, 2 AC, 3 P, 4 CY (rule R44). -/
def State.flagByIndex (s : State) (index : Fin 5) : Bool :=
  match index with
  | 0 => s.flags.s
  | 1 => s.flags.z
  | 2 => s.flags.ac
  | 3 => s.flags.p
  | 4 => s.flags.cy

/-- A record of what distinguishes two states (rule R346): a snapshot of the old core and the cells that
differ, with the bytes they held in the old state (log entry 12). -/
structure Changes where
  a : Byte
  b : Byte
  c : Byte
  d : Byte
  e : Byte
  h : Byte
  l : Byte
  sp : Word
  pc : Word
  flags : Flags
  memBytes : List Host.Cell
  ioBytes : List Host.Cell
  lastResult : StepResult
  deriving DecidableEq, Repr

/-- `diff(old, new)` (rule R346). -/
def State.diff (old new : State) : Changes :=
  { a := old.a, b := old.b, c := old.c, d := old.d, e := old.e, h := old.h, l := old.l,
    sp := old.sp, pc := old.pc, flags := old.flags,
    memBytes := Memory.undoCells old.mem new.mem, ioBytes := Memory.undoCells old.io new.io,
    lastResult := old.lastResult }

/-- `apply(changes)` (rule R346): back to the old state. -/
def Changes.apply (ch : Changes) (s : State) : State :=
  { a := ch.a, b := ch.b, c := ch.c, d := ch.d, e := ch.e, h := ch.h, l := ch.l,
    sp := ch.sp, pc := ch.pc, flags := ch.flags,
    mem := s.mem.writeAll ch.memBytes, io := s.io.writeAll ch.ioBytes,
    lastResult := ch.lastResult }

end Sys2Proof.Machine
end

