-- ==== Sys2Proof/Safety.lean ====
section
/-! DEFINITION. The terms claims are stated in: canonical states, safe runs, what an instruction may write, what a
frame keeps, the result flags in numbers, and an instruction written as tokens. -/

namespace Sys2Proof.Machine

/-! ### States and runs -/

/-- Both arrays have their canonical form. -/
def State.wf (s : State) : Bool := s.mem.wf memCells && s.io.wf ioCells

/-- The first `n` steps from `s` stop with no fault and no refusal. -/
def staysSafe (n : Nat) (s : State) : Bool :=
  match n with
  | 0 => true
  | n + 1 =>
    match step s with
    | .next t => staysSafe n t
    | .fault _ => false
    | .refused _ => false

/-- A run has halted cleanly, not ended in a fault (rules R332, R335). -/
def StepEnd.haltedCleanly (e : StepEnd) : Bool :=
  match e.left.lastResult with
  | .halted _ => true
  | .cont => false
  | .fault _ => false

/-! ### The opcode bytes by length (rules R84, R96) -/

/-- The ten opcode bytes with no handler (rule R96). -/
def undefinedOpcodes : List Byte := [0x08, 0x10, 0x18, 0x28, 0x38, 0xCB, 0xD9, 0xDD, 0xED, 0xFD]

/-- The 18 two-byte opcodes (rule R84). -/
def twoByteOpcodes : List Byte :=
  [0x06, 0x0E, 0x16, 0x1E, 0x26, 0x2E, 0x36, 0x3E, 0xC6, 0xCE, 0xD6, 0xDE, 0xE6, 0xEE, 0xF6, 0xFE,
    0xD3, 0xDB]

/-- The 26 three-byte opcodes (rule R84). -/
def threeByteOpcodes : List Byte :=
  [0x01, 0x11, 0x21, 0x31, 0x22, 0x2A, 0x32, 0x3A, 0xC2, 0xCA, 0xD2, 0xDA, 0xE2, 0xEA, 0xF2, 0xFA,
    0xC3, 0xC4, 0xCC, 0xD4, 0xDC, 0xE4, 0xEC, 0xF4, 0xFC, 0xCD]

/-- `bytes` are the bytes of `i`: `i` encodes to them, and they decode to `i` whatever follows (rules R98,
R100). -/
def Encoded (i : Instr) (bytes : List Byte) : Prop :=
  encode i = bytes ∧ ∀ rest, decode (bytes ++ rest) = .ok i rest

/-- The bytes of `i` are `op` and the halves of `v`, low byte first (rules R66, R81). -/
def EncodedWord (i : Instr) (op : Byte) (v : Word) : Prop :=
  ∀ hi lo : Byte, 256 * hi.toNat + lo.toNat = v.toNat → Encoded i [op, lo, hi]

/-! ### What an instruction may write -/

/-- The five flags by name (rule R20). -/
inductive FlagName
  | s | z | ac | p | cy
  deriving DecidableEq, Repr

/-- A flag by its name. -/
def Flags.get (f : Flags) (name : FlagName) : Bool :=
  match name with
  | .s => f.s
  | .z => f.z
  | .ac => f.ac
  | .p => f.p
  | .cy => f.cy

/-- The flags the table of rule R30 says an instruction writes. -/
def flagsWritten (i : Instr) : List FlagName :=
  match i with
  | .add _ | .adc _ | .adi _ | .aci _ => [.s, .z, .ac, .p, .cy]
  | .sub _ | .sbb _ | .sui _ | .sbi _ | .cmp _ | .cpi _ => [.s, .z, .ac, .p, .cy]
  | .ana _ | .ani _ | .xra _ | .ora _ | .xri _ | .ori _ => [.s, .z, .ac, .p, .cy]
  | .inr _ | .dcr _ => [.s, .z, .ac, .p]
  | .daa => [.s, .z, .ac, .p, .cy]
  | .dad _ | .rlc | .rrc | .ral | .rar | .stc | .cmc => [.cy]
  | .pop .psw => [.s, .z, .ac, .p, .cy]
  | .pop _ => []
  | .mov _ _ | .mvi _ _ | .lxi _ _ | .stax _ | .ldax _ | .sta _ | .lda _ | .shld _ | .lhld _ => []
  | .xchg | .push _ | .xthl | .sphl | .pchl | .inx _ | .dcx _ | .cma => []
  | .jmp _ | .jnz _ | .jz _ | .jnc _ | .jc _ | .jpo _ | .jpe _ | .jp _ | .jm _ => []
  | .call _ | .cnz _ | .cz _ | .cnc _ | .cc _ | .cpo _ | .cpe _ | .cp _ | .cm _ => []
  | .ret | .rnz | .rz | .rnc | .rc | .rpo | .rpe | .rp | .rm | .rst _ => []
  | .in_ _ | .out _ | .ei | .di | .hlt | .nop | .rim | .sim => []

/-- The flags the last paragraph of rule R30 says an instruction reads. -/
def flagsRead (i : Instr) : List FlagName :=
  match i with
  | .adc _ | .aci _ | .sbb _ | .sbi _ | .ral | .rar | .cmc => [.cy]
  | .daa => [.ac, .cy]
  | .push .psw => [.s, .z, .ac, .p, .cy]
  | .jz _ | .jnz _ | .cz _ | .cnz _ | .rz | .rnz => [.z]
  | .jc _ | .jnc _ | .cc _ | .cnc _ | .rc | .rnc => [.cy]
  | .jpo _ | .jpe _ | .cpo _ | .cpe _ | .rpo | .rpe => [.p]
  | .jp _ | .jm _ | .cp _ | .cm _ | .rp | .rm => [.s]
  | .push _ | .pop _ | .mov _ _ | .mvi _ _ | .lxi _ _ | .stax _ | .ldax _ | .sta _ | .lda _ => []
  | .shld _ | .lhld _ | .xchg | .xthl | .sphl | .pchl | .inx _ | .dcx _ | .dad _ | .cma | .stc => []
  | .add _ | .sub _ | .adi _ | .sui _ | .cmp _ | .cpi _ | .inr _ | .dcr _ | .rlc | .rrc => []
  | .ana _ | .xra _ | .ora _ | .ani _ | .xri _ | .ori _ | .jmp _ | .call _ | .ret | .rst _ => []
  | .in_ _ | .out _ | .ei | .di | .hlt | .nop | .rim | .sim => []

/-- The halves of a pair; SP has none. -/
def pairHalves (p : Pair) : List Reg8 :=
  match p with
  | .bc => [.b, .c]
  | .de => [.d, .e]
  | .hl => [.h, .l]
  | .sp => []

/-- The 8-bit registers POP writes (rule R132). -/
def stackPairRegs (p : StackPair) : List Reg8 :=
  match p with
  | .bc => [.b, .c]
  | .de => [.d, .e]
  | .hl => [.h, .l]
  | .psw => [.a]

/-- The 8-bit registers an instruction's rule writes. A destination `m` is no register. -/
def regsWritten (i : Instr) : List Reg8 :=
  match i with
  | .mov dst _ | .mvi dst _ | .inr dst | .dcr dst => [dst]
  | .lxi p _ | .inx p | .dcx p => pairHalves p
  | .ldax _ | .lda _ | .in_ _ | .cma | .daa | .rlc | .rrc | .ral | .rar => [.a]
  | .add _ | .adc _ | .sub _ | .sbb _ | .ana _ | .xra _ | .ora _ => [.a]
  | .adi _ | .aci _ | .sui _ | .sbi _ | .ani _ | .xri _ | .ori _ => [.a]
  | .lhld _ | .xthl | .dad _ => [.h, .l]
  | .xchg => [.d, .e, .h, .l]
  | .pop p => stackPairRegs p
  | .stax _ | .sta _ | .shld _ | .push _ | .sphl | .cmp _ | .cpi _ | .stc | .cmc => []
  | .jmp _ | .jnz _ | .jz _ | .jnc _ | .jc _ | .jpo _ | .jpe _ | .jp _ | .jm _ | .pchl => []
  | .call _ | .cnz _ | .cz _ | .cnc _ | .cc _ | .cpo _ | .cpe _ | .cp _ | .cm _ => []
  | .ret | .rnz | .rz | .rnc | .rc | .rpo | .rpe | .rp | .rm | .rst _ => []
  | .out _ | .ei | .di | .hlt | .nop | .rim | .sim => []

/-- Whether an instruction's rule may change SP (rule R29). -/
def movesSp (i : Instr) : Bool :=
  match i with
  | .lxi p _ | .inx p | .dcx p => p == .sp
  | .sphl | .push _ | .pop _ | .rst _ => true
  | .call _ | .cnz _ | .cz _ | .cnc _ | .cc _ | .cpo _ | .cpe _ | .cp _ | .cm _ => true
  | .ret | .rnz | .rz | .rnc | .rc | .rpo | .rpe | .rp | .rm => true
  | .mov _ _ | .mvi _ _ | .stax _ | .ldax _ | .sta _ | .lda _ | .shld _ | .lhld _ | .xchg | .xthl => false
  | .add _ | .adc _ | .sub _ | .sbb _ | .adi _ | .aci _ | .sui _ | .sbi _ => false
  | .inr _ | .dcr _ | .dad _ | .daa | .rlc | .rrc | .ral | .rar | .cma | .stc | .cmc => false
  | .ana _ | .xra _ | .ora _ | .cmp _ | .ani _ | .xri _ | .ori _ | .cpi _ => false
  | .jmp _ | .jnz _ | .jz _ | .jnc _ | .jc _ | .jpo _ | .jpe _ | .jp _ | .jm _ | .pchl => false
  | .in_ _ | .out _ | .ei | .di | .hlt | .nop | .rim | .sim => false

/-- Whether an instruction transfers control (44_control_transfer.md). -/
def transfersControl (i : Instr) : Bool :=
  match i with
  | .jmp _ | .jnz _ | .jz _ | .jnc _ | .jc _ | .jpo _ | .jpe _ | .jp _ | .jm _ | .pchl => true
  | .call _ | .cnz _ | .cz _ | .cnc _ | .cc _ | .cpo _ | .cpe _ | .cp _ | .cm _ | .rst _ => true
  | .ret | .rnz | .rz | .rnc | .rc | .rpo | .rpe | .rp | .rm => true
  | .mov _ _ | .mvi _ _ | .lxi _ _ | .stax _ | .ldax _ | .sta _ | .lda _ | .shld _ | .lhld _ => false
  | .xchg | .push _ | .pop _ | .xthl | .sphl | .inx _ | .dcx _ | .inr _ | .dcr _ | .dad _ | .daa => false
  | .add _ | .adc _ | .sub _ | .sbb _ | .adi _ | .aci _ | .sui _ | .sbi _ => false
  | .rlc | .rrc | .ral | .rar | .cma | .stc | .cmc => false
  | .ana _ | .xra _ | .ora _ | .cmp _ | .ani _ | .xri _ | .ori _ | .cpi _ => false
  | .in_ _ | .out _ | .ei | .di | .hlt | .nop | .rim | .sim => false

/-- The two cells of a 16-bit access at an address, the index not wrapped (rules R58, R59). -/
def wordCells (addr : Word) : List Nat := [addr.toNat, addr.toNat + 1]

/-- The cells a push writes (rule R64). -/
def pushCells (s : State) : List Nat := wordCells (s.sp - 2)

/-- The cells a write of an 8-bit operand writes: the one at HL for M (rule R23). -/
def reg8Cells (r : Reg8) (s : State) : List Nat := if r = .m then [s.hl.toNat] else []

/-- The memory cells an instruction stores to in a state, computed as its rule computes them (rule R69). -/
def storedCells (i : Instr) (s : State) : List Nat :=
  match i with
  | .mov dst _ | .mvi dst _ | .inr dst | .dcr dst => reg8Cells dst s
  | .stax p => [(s.readIndexPair p).toNat]
  | .sta addr => [addr.toNat]
  | .shld addr => wordCells addr
  | .push _ | .call _ | .rst _ => pushCells s
  | .xthl => wordCells s.sp
  | .cnz _ => if s.flags.holds .nz then pushCells s else []
  | .cz _ => if s.flags.holds .z then pushCells s else []
  | .cnc _ => if s.flags.holds .nc then pushCells s else []
  | .cc _ => if s.flags.holds .c then pushCells s else []
  | .cpo _ => if s.flags.holds .po then pushCells s else []
  | .cpe _ => if s.flags.holds .pe then pushCells s else []
  | .cp _ => if s.flags.holds .p then pushCells s else []
  | .cm _ => if s.flags.holds .m then pushCells s else []
  | .lxi _ _ | .ldax _ | .lda _ | .lhld _ | .xchg | .pop _ | .sphl | .inx _ | .dcx _ | .dad _ | .daa => []
  | .add _ | .adc _ | .sub _ | .sbb _ | .adi _ | .aci _ | .sui _ | .sbi _ => []
  | .ana _ | .xra _ | .ora _ | .cmp _ | .ani _ | .xri _ | .ori _ | .cpi _ => []
  | .rlc | .rrc | .ral | .rar | .cma | .stc | .cmc => []
  | .jmp _ | .jnz _ | .jz _ | .jnc _ | .jc _ | .jpo _ | .jpe _ | .jp _ | .jm _ | .pchl => []
  | .ret | .rnz | .rz | .rnc | .rc | .rpo | .rpe | .rp | .rm => []
  | .in_ _ | .out _ | .ei | .di | .hlt | .nop | .rim | .sim => []

/-- The IO cells an instruction stores to (rules R51, R252). -/
def storedPorts (i : Instr) : List Nat :=
  match i with
  | .out port => [port.toNat]
  | _ => []

/-- The instructions that reach IO (rule R51). -/
def reachesIo (i : Instr) : Bool :=
  match i with
  | .in_ _ | .out _ => true
  | _ => false

/-- The instructions that reach memory beside their fetch (rule R51). -/
def reachesMemory (i : Instr) : Bool :=
  match i with
  | .mov dst src => dst == .m || src == .m
  | .mvi r _ | .inr r | .dcr r | .add r | .adc r | .sub r | .sbb r | .ana r | .xra r | .ora r | .cmp r =>
    r == .m
  | .stax _ | .ldax _ | .sta _ | .lda _ | .shld _ | .lhld _ | .push _ | .pop _ | .xthl | .rst _ => true
  | .call _ | .cnz _ | .cz _ | .cnc _ | .cc _ | .cpo _ | .cpe _ | .cp _ | .cm _ => true
  | .ret | .rnz | .rz | .rnc | .rc | .rpo | .rpe | .rp | .rm => true
  | .lxi _ _ | .xchg | .sphl | .inx _ | .dcx _ | .dad _ | .daa | .rlc | .rrc | .ral | .rar => false
  | .adi _ | .aci _ | .sui _ | .sbi _ | .ani _ | .xri _ | .ori _ | .cpi _ | .cma | .stc | .cmc => false
  | .jmp _ | .jnz _ | .jz _ | .jnc _ | .jc _ | .jpo _ | .jpe _ | .jp _ | .jm _ | .pchl => false
  | .in_ _ | .out _ | .ei | .di | .hlt | .nop | .rim | .sim => false

/-! ### What a statement about one instruction says -/

/-- From `s` to `t` nothing changes but the 8-bit registers `regs`, the memory cells `cells`, the IO cells
`ports`, SP, PC and the flags; those three a statement gives beside this. -/
def Frame (regs : List Reg8) (cells ports : List Nat) (s t : State) : Prop :=
  (∀ r : Reg8, r ≠ .m → r ∉ regs → t.readReg8 r = s.readReg8 r) ∧
    (∀ i : Nat, i ∉ cells → t.mem.read i = s.mem.read i) ∧
    (∀ i : Nat, i ∉ ports → t.io.read i = s.io.read i) ∧ t.lastResult = s.lastResult

/-- SP, PC and the flags are unchanged. -/
def KeepsSpPcFlags (s t : State) : Prop := t.sp = s.sp ∧ t.pc = s.pc ∧ t.flags = s.flags

/-- The cells `index` and `index + 1` hold `v`, low byte first. -/
def HoldsWord (s : State) (index : Nat) (v : Word) : Prop :=
  (s.mem.read index).toNat = v.toNat % 256 ∧ (s.mem.read (index + 1)).toNat = v.toNat / 256

/-- `hi` and `lo` are the halves of `v`. -/
def Halves (hi lo : Byte) (v : Word) : Prop := 256 * hi.toNat + lo.toNat = v.toNat

/-- S, Z and P are those of the result `res`, in numbers (rule R31). -/
def ResultFlags (f : Flags) (res : Byte) : Prop :=
  (f.s = true ↔ 0x80 ≤ res.toNat) ∧ (f.z = true ↔ res.toNat = 0) ∧
    (f.p = true ↔ ((List.range 8).countP (fun i => res.getLsbD i)) % 2 = 0)

/-- `i` adds `v` and `cin` to A: the 9-bit sum is CY and A, AC is the carry out of bit 3, S Z P are those of
A, and nothing else changes (rules R140, R156). -/
def AddsToA (i : Instr) (s : State) (v : Byte) (cin : Bool) : Prop :=
  ∃ t, exec i s = .next t ∧
    t.a.toNat + 256 * t.flags.cy.toNat = s.a.toNat + v.toNat + cin.toNat ∧
    (t.flags.ac = true ↔ 16 ≤ s.a.toNat % 16 + v.toNat % 16 + cin.toNat) ∧
    ResultFlags t.flags t.a ∧ t.sp = s.sp ∧ t.pc = s.pc ∧ Frame [.a] [] [] s t

/-- The flags `f` are those of subtracting `v` and `bin` from `a` with the result `res`: CY and AC are
borrows (rules R141, R156). -/
def BorrowFlags (f : Flags) (a v : Byte) (bin : Bool) (res : Byte) : Prop :=
  res.toNat + v.toNat + bin.toNat = a.toNat + 256 * f.cy.toNat ∧
    (f.ac = true ↔ a.toNat % 16 < v.toNat % 16 + bin.toNat) ∧ ResultFlags f res

/-- `i` subtracts `v` and `bin` from A. -/
def SubtractsFromA (i : Instr) (s : State) (v : Byte) (bin : Bool) : Prop :=
  ∃ t, exec i s = .next t ∧ BorrowFlags t.flags s.a v bin t.a ∧ t.sp = s.sp ∧ t.pc = s.pc ∧
    Frame [.a] [] [] s t

/-- `i` compares A with `v`: the flags of the subtraction, A not written (rules R174, R178). -/
def ComparesWithA (i : Instr) (s : State) (v : Byte) : Prop :=
  ∃ t res, exec i s = .next t ∧ BorrowFlags t.flags s.a v false res ∧ t.sp = s.sp ∧ t.pc = s.pc ∧
    Frame [] [] [] s t

/-- `i` leaves in A the bits `bit k` for `k` below 8, with S Z P of the result, AC as given and CY clear (rule
R170). -/
def LogicalResult (i : Instr) (s : State) (bit : Nat → Bool) (ac : Bool) : Prop :=
  ∃ t, exec i s = .next t ∧ (∀ k, k < 8 → t.a.getLsbD k = bit k) ∧ ResultFlags t.flags t.a ∧
    t.flags.ac = ac ∧ t.flags.cy = false ∧ t.sp = s.sp ∧ t.pc = s.pc ∧ Frame [.a] [] [] s t

/-- `i` leaves in A the bits `bit k` for `k` below 8 and `cy` in CY, and writes no other flag. -/
def RotatesA (i : Instr) (s : State) (bit : Nat → Bool) (cy : Bool) : Prop :=
  ∃ t, exec i s = .next t ∧ (∀ k, k < 8 → t.a.getLsbD k = bit k) ∧
    t.flags = { s.flags with cy := cy } ∧ t.sp = s.sp ∧ t.pc = s.pc ∧ Frame [.a] [] [] s t

/-- `i` goes to `target` when `taken`, and to the next instruction otherwise; nothing else changes. -/
def JumpsTo (i : Instr) (s : State) (taken : Bool) (target : Word) : Prop :=
  ∃ t, exec i s = .next t ∧ t.pc = (if taken then target else s.pc) ∧ t.sp = s.sp ∧
    t.flags = s.flags ∧ Frame [] [] [] s t

/-- `i` pushes the address of the next instruction and goes to `target` (rules R64, R211). -/
def CallsTo (i : Instr) (s : State) (target : Word) : Prop :=
  ∃ t, exec i s = .next t ∧ t.pc = target ∧ t.sp = s.sp - 2 ∧
    HoldsWord t (s.sp - 2).toNat s.pc ∧ t.flags = s.flags ∧
    Frame [] [(s.sp - 2).toNat, (s.sp - 2).toNat + 1] [] s t

/-- `i` calls `target` when `taken`, and otherwise changes nothing. -/
def CallsWhen (i : Instr) (s : State) (taken : Bool) (target : Word) : Prop :=
  if taken then CallsTo i s target else exec i s = .next s

/-- `i` pops the word at SP into PC (rules R64, R220). -/
def ReturnsTo (i : Instr) (s : State) : Prop :=
  ∃ t, exec i s = .next t ∧ HoldsWord s s.sp.toNat t.pc ∧ t.sp = s.sp + 2 ∧ t.flags = s.flags ∧
    Frame [] [] [] s t

/-- `i` returns when `taken`, and otherwise changes nothing. -/
def ReturnsWhen (i : Instr) (s : State) (taken : Bool) : Prop :=
  if taken then ReturnsTo i s else exec i s = .next s

/-! ### The encoder -/

/-- The states that end the queue: nothing may follow them (rules R291, R292, R300). -/
def ExpectedState.endsQueue (st : ExpectedState) : Bool :=
  match st with
  | .search | .colon | .append => true
  | .comma | .sourceRegister | .destinationRegister | .registerPair => false
  | .immediate8 | .immediate16 | .rstImmediate => false

/-- A queue of operand states with one ending state at its end, hence not empty (rule R290). -/
def queueWf (queue : List ExpectedState) : Bool :=
  match queue with
  | [] => false
  | [st] => st.endsQueue
  | st :: rest => !st.endsQueue && queueWf rest

/-- The invariant of pass 1 (rules R284, R290, R316): the queue has its form, the address counter is the origin
plus the length of the buffer, and has not passed its limit. -/
def EncoderState.wf (cfg : Config) (s : EncoderState) : Bool :=
  queueWf s.queue && s.addr == cfg.codeOrigin.toNat + s.buf.length && decide (s.addr ≤ addressLimit)

/-- The hex digit of a number below 16. -/
def hexChar (n : Nat) : Char := if n < 10 then Char.ofNat (48 + n) else Char.ofNat (87 + n)

/-- A byte as the literal `0x` and two digits. -/
def hexText8 (v : Byte) : Text := ['0', 'x', hexChar (v.toNat / 16), hexChar (v.toNat % 16)]

/-- A word as the literal `0x` and four digits. -/
def hexText16 (v : Word) : Text :=
  ['0', 'x', hexChar (v.toNat / 4096), hexChar (v.toNat / 256 % 16), hexChar (v.toNat / 16 % 16),
    hexChar (v.toNat % 16)]

/-- The source name of an 8-bit operand (rule R281). -/
def regText : Reg8 → Text
  | .b => ['B']
  | .c => ['C']
  | .d => ['D']
  | .e => ['E']
  | .h => ['H']
  | .l => ['L']
  | .m => ['M']
  | .a => ['A']

/-- The source name of a pair (rule R282). -/
def pairText : Pair → Text
  | .bc => ['B', 'C']
  | .de => ['D', 'E']
  | .hl => ['H', 'L']
  | .sp => ['S', 'P']

/-- The source name of a pair (rule R282). -/
def indexPairText : IndexPair → Text
  | .bc => ['B', 'C']
  | .de => ['D', 'E']

/-- The source name of a stack operand (rule R282). -/
def stackPairText : StackPair → Text
  | .bc => ['B', 'C']
  | .de => ['D', 'E']
  | .hl => ['H', 'L']
  | .psw => ['P', 'S', 'W']

/-- An 8-bit literal as a token. -/
def literal8 (v : Byte) : Token := .hexLiteral (hexText8 v)

/-- A 16-bit literal as a token. -/
def literal16 (v : Word) : Token := .hexLiteral (hexText16 v)

/-- An instruction as the tokens of its statement, without the end of the line (rules R271, R280). -/
def statementOf (i : Instr) : List Token :=
  match i with
  | .mov dst src => [.name ['m', 'o', 'v'], .name (regText dst), .comma, .name (regText src)]
  | .mvi dst v => [.name ['m', 'v', 'i'], .name (regText dst), .comma, literal8 v]
  | .lxi p v => [.name ['l', 'x', 'i'], .name (pairText p), .comma, literal16 v]
  | .stax p => [.name ['s', 't', 'a', 'x'], .name (indexPairText p)]
  | .ldax p => [.name ['l', 'd', 'a', 'x'], .name (indexPairText p)]
  | .sta addr => [.name ['s', 't', 'a'], literal16 addr]
  | .lda addr => [.name ['l', 'd', 'a'], literal16 addr]
  | .shld addr => [.name ['s', 'h', 'l', 'd'], literal16 addr]
  | .lhld addr => [.name ['l', 'h', 'l', 'd'], literal16 addr]
  | .xchg => [.name ['x', 'c', 'h', 'g']]
  | .push p => [.name ['p', 'u', 's', 'h'], .name (stackPairText p)]
  | .pop p => [.name ['p', 'o', 'p'], .name (stackPairText p)]
  | .xthl => [.name ['x', 't', 'h', 'l']]
  | .sphl => [.name ['s', 'p', 'h', 'l']]
  | .add src => [.name ['a', 'd', 'd'], .name (regText src)]
  | .adc src => [.name ['a', 'd', 'c'], .name (regText src)]
  | .sub src => [.name ['s', 'u', 'b'], .name (regText src)]
  | .sbb src => [.name ['s', 'b', 'b'], .name (regText src)]
  | .adi v => [.name ['a', 'd', 'i'], literal8 v]
  | .aci v => [.name ['a', 'c', 'i'], literal8 v]
  | .sui v => [.name ['s', 'u', 'i'], literal8 v]
  | .sbi v => [.name ['s', 'b', 'i'], literal8 v]
  | .inr dst => [.name ['i', 'n', 'r'], .name (regText dst)]
  | .dcr dst => [.name ['d', 'c', 'r'], .name (regText dst)]
  | .inx p => [.name ['i', 'n', 'x'], .name (pairText p)]
  | .dcx p => [.name ['d', 'c', 'x'], .name (pairText p)]
  | .dad p => [.name ['d', 'a', 'd'], .name (pairText p)]
  | .daa => [.name ['d', 'a', 'a']]
  | .ana src => [.name ['a', 'n', 'a'], .name (regText src)]
  | .xra src => [.name ['x', 'r', 'a'], .name (regText src)]
  | .ora src => [.name ['o', 'r', 'a'], .name (regText src)]
  | .cmp src => [.name ['c', 'm', 'p'], .name (regText src)]
  | .ani v => [.name ['a', 'n', 'i'], literal8 v]
  | .xri v => [.name ['x', 'r', 'i'], literal8 v]
  | .ori v => [.name ['o', 'r', 'i'], literal8 v]
  | .cpi v => [.name ['c', 'p', 'i'], literal8 v]
  | .rlc => [.name ['r', 'l', 'c']]
  | .rrc => [.name ['r', 'r', 'c']]
  | .ral => [.name ['r', 'a', 'l']]
  | .rar => [.name ['r', 'a', 'r']]
  | .cma => [.name ['c', 'm', 'a']]
  | .stc => [.name ['s', 't', 'c']]
  | .cmc => [.name ['c', 'm', 'c']]
  | .jmp addr => [.name ['j', 'm', 'p'], literal16 addr]
  | .jnz addr => [.name ['j', 'n', 'z'], literal16 addr]
  | .jz addr => [.name ['j', 'z'], literal16 addr]
  | .jnc addr => [.name ['j', 'n', 'c'], literal16 addr]
  | .jc addr => [.name ['j', 'c'], literal16 addr]
  | .jpo addr => [.name ['j', 'p', 'o'], literal16 addr]
  | .jpe addr => [.name ['j', 'p', 'e'], literal16 addr]
  | .jp addr => [.name ['j', 'p'], literal16 addr]
  | .jm addr => [.name ['j', 'm'], literal16 addr]
  | .call addr => [.name ['c', 'a', 'l', 'l'], literal16 addr]
  | .cnz addr => [.name ['c', 'n', 'z'], literal16 addr]
  | .cz addr => [.name ['c', 'z'], literal16 addr]
  | .cnc addr => [.name ['c', 'n', 'c'], literal16 addr]
  | .cc addr => [.name ['c', 'c'], literal16 addr]
  | .cpo addr => [.name ['c', 'p', 'o'], literal16 addr]
  | .cpe addr => [.name ['c', 'p', 'e'], literal16 addr]
  | .cp addr => [.name ['c', 'p'], literal16 addr]
  | .cm addr => [.name ['c', 'm'], literal16 addr]
  | .ret => [.name ['r', 'e', 't']]
  | .rnz => [.name ['r', 'n', 'z']]
  | .rz => [.name ['r', 'z']]
  | .rnc => [.name ['r', 'n', 'c']]
  | .rc => [.name ['r', 'c']]
  | .rpo => [.name ['r', 'p', 'o']]
  | .rpe => [.name ['r', 'p', 'e']]
  | .rp => [.name ['r', 'p']]
  | .rm => [.name ['r', 'm']]
  | .rst n => [.name ['r', 's', 't'], literal8 (n.setWidth 8)]
  | .pchl => [.name ['p', 'c', 'h', 'l']]
  | .in_ port => [.name ['i', 'n'], literal8 port]
  | .out port => [.name ['o', 'u', 't'], literal8 port]
  | .nop => [.name ['n', 'o', 'p']]
  | .hlt => [.name ['h', 'l', 't']]
  | .ei => [.name ['e', 'i']]
  | .di => [.name ['d', 'i']]
  | .rim => [.name ['r', 'i', 'm']]
  | .sim => [.name ['s', 'i', 'm']]

end Sys2Proof.Machine
end

