-- ==== Sys2Proof/Certificates/Slice0/Obligations.lean ====
section
/-! DEFINITION. The statements for the provers. Each says in its docstring which rule of the spec it formalises, and
names the log entry of a clause that is the model's or the spec's own choice. -/

open Sys2Proof Sys2Proof.Machine

/-! ### Encoding -/

/-- A word of each family, written out from rules R84 to R86, decodes to the instruction it stands for. -/
def Obligations.SampleWordsDecode : Prop :=
  decodeTableWord 8 0x7E = some (.mov .a .m) ∧ decodeTableWord 16 0x053E = some (.mvi .a 0x05) ∧
    decodeTableWord 24 0x123421 = some (.lxi .hl 0x1234) ∧ decodeTableWord 8 0x12 = some (.stax .de) ∧
    decodeTableWord 24 0x300022 = some (.shld 0x3000) ∧ decodeTableWord 8 0xF5 = some (.push .psw) ∧
    decodeTableWord 8 0x9D = some (.sbb .l) ∧ decodeTableWord 16 0xBECE = some (.aci 0xBE) ∧
    decodeTableWord 8 0x34 = some (.inr .m) ∧ decodeTableWord 8 0x39 = some (.dad .sp) ∧
    decodeTableWord 8 0xBB = some (.cmp .e) ∧ decodeTableWord 8 0x1F = some .rar ∧
    decodeTableWord 24 0xC034CA = some (.jz 0xC034) ∧ decodeTableWord 24 0xC020CD = some (.call 0xC020) ∧
    decodeTableWord 8 0xD8 = some .rc ∧ decodeTableWord 8 0xEF = some (.rst 5) ∧
    decodeTableWord 16 0x10DB = some (.in_ 0x10) ∧ decodeTableWord 8 0x76 = some .hlt ∧
    decodeTableWord 8 0xED = none

/-- Every well-formed instruction is read back from its bytes, whatever follows them (rule R100, derived). -/
def Obligations.DecodeInvertsEncode : Prop :=
  ∀ (i : Instr) (rest : List Byte), i.wf = true → decode (encode i ++ rest) = .ok i rest

/-- What decodes is a well-formed instruction followed by the rest: one byte sequence for each instruction (rules
R98 to R100). -/
def Obligations.EncodeInvertsDecode : Prop :=
  ∀ (bytes rest : List Byte) (i : Instr), decode bytes = .ok i rest →
    i.wf = true ∧ bytes = encode i ++ rest

/-- The length of an instruction is known from its opcode byte: the 246 defined bytes are 18 of two bytes, 26 of three
and 202 of one (rule R84). A step that meets one of the ten undefined bytes faults with its address and byte (rules R96,
R332). Which ten those are and the PC the fault leaves are the spec's decision D10 (log entry 17). -/
def Obligations.LengthFollowsOpcode : Prop :=
  (∀ (op x y : Byte) (rest : List Byte),
    (op ∈ undefinedOpcodes → decode (op :: x :: y :: rest) = .undefinedOpcode op) ∧
    (op ∉ undefinedOpcodes → ∃ i,
      (encode i).length = (if op ∈ twoByteOpcodes then 2 else if op ∈ threeByteOpcodes then 3 else 1) ∧
      decode (op :: x :: y :: rest) = .ok i ((op :: x :: y :: rest).drop (encode i).length))) ∧
  (∀ s : State, s.pc.toNat < config.haltBoundary → s.memRead8 s.pc ∈ undefinedOpcodes →
    step s = .fault (.illegalOpcode s.pc (s.memRead8 s.pc)) ∧ (execute s).left.pc = s.pc + 1) ∧
  undefinedOpcodes.Nodup ∧ twoByteOpcodes.Nodup ∧ threeByteOpcodes.Nodup ∧
  undefinedOpcodes.length = 10 ∧ twoByteOpcodes.length = 18 ∧ threeByteOpcodes.length = 26

/-- The operand a register or pair code selects, and the halves of a pair (rules R23 to R25; the numeric codes and
the high half are the spec's decisions D2, D42). -/
def Obligations.OperandCodes : Prop :=
  [reg8OfCode 0, reg8OfCode 1, reg8OfCode 2, reg8OfCode 3, reg8OfCode 4, reg8OfCode 5, reg8OfCode 6,
      reg8OfCode 7] = [.b, .c, .d, .e, .h, .l, .m, .a] ∧
    [pairOfCode 0, pairOfCode 1, pairOfCode 2, pairOfCode 3] = [.bc, .de, .hl, .sp] ∧
    [stackPairOfCode 0, stackPairOfCode 1, stackPairOfCode 2, stackPairOfCode 3] = [.bc, .de, .hl, .psw] ∧
    (∀ r : Reg8, reg8OfCode (r.code.setWidth 3) = r ∧ r.code.toNat < 8) ∧
    (∀ p : Pair, pairOfCode (p.code.setWidth 2) = p ∧ p.code.toNat < 4) ∧
    (∀ p : StackPair, stackPairOfCode (p.code.setWidth 2) = p ∧ p.code.toNat < 4) ∧
    ∀ s : State,
      [s.readReg8 .b, s.readReg8 .c, s.readReg8 .d, s.readReg8 .e, s.readReg8 .h, s.readReg8 .l, s.readReg8 .m,
          s.readReg8 .a] = [s.b, s.c, s.d, s.e, s.h, s.l, s.mem.read s.hl.toNat, s.a] ∧
        Halves s.b s.c s.bc ∧ Halves s.d s.e s.de ∧ Halves s.h s.l s.hl ∧
        [s.readPair .bc, s.readPair .de, s.readPair .hl, s.readPair .sp] = [s.bc, s.de, s.hl, s.sp] ∧
        [s.readIndexPair .bc, s.readIndexPair .de] = [s.bc, s.de]

/-! ### The step -/

/-- A step runs the instruction the bytes at PC decode to, in the state with PC past them (rules R27, R63, R330);
`lastResult` is the model's own field (log entry 2). -/
def Obligations.StepRunsDecodedInstruction : Prop :=
  ∀ (s : State) (i : Instr) (rest : List Byte), s.pc.toNat < config.haltBoundary →
    decode [s.mem.read s.pc.toNat, s.mem.read (s.pc.toNat + 1), s.mem.read (s.pc.toNat + 2)] = .ok i rest →
    step s = exec i ((s.setLastResult .cont).setPc (s.pc + BitVec.ofNat 16 (encode i).length))

/-- An undefined opcode faults with its address and its byte, and leaves only PC changed (rules R96, R332, R338);
`lastResult` is the model's own field (log entry 2). -/
def Obligations.IllegalOpcodeFault : Prop :=
  ∀ s : State, s.pc.toNat < config.haltBoundary → s.mem.read s.pc.toNat ∈ undefinedOpcodes →
    step s = .fault (.illegalOpcode s.pc (s.mem.read s.pc.toNat)) ∧
      (execute s).left = (s.setPc (s.pc + 1)).setLastResult
        (.fault (.illegalOpcode s.pc (s.mem.read s.pc.toNat))) ∧
      (execute s).haltedCleanly = false

/-- The illegal opcode is the only synchronous exception: no step refuses, none reports a bus fault (rules R332,
R333, R334). -/
def Obligations.OnlyIllegalOpcodeStops : Prop :=
  ∀ s : State, (∀ r, step s ≠ .refused r) ∧
    ∀ f, step s = .fault f → s.pc.toNat < config.haltBoundary ∧
      s.mem.read s.pc.toNat ∈ undefinedOpcodes ∧ f = .illegalOpcode s.pc (s.mem.read s.pc.toNat)

/-- A step that reports a halt either met the boundary and changed nothing, or fetched HLT and moved PC by one
(rules R254, R331); no other step reports one. -/
def Obligations.OnlyTwoWaysToHalt : Prop :=
  ∀ s t : State, step s = .next t →
    t.lastResult = .cont ∨
    (config.haltBoundary ≤ s.pc.toNat ∧ t = s.setLastResult (.halted .boundary)) ∨
    (s.pc.toNat < config.haltBoundary ∧ s.mem.read s.pc.toNat = 0x76 ∧
      t = (s.setPc (s.pc + 1)).setLastResult (.halted .hlt))

/-- The two halts happen; a halted boundary step repeats; there is no halted latch, so a step after HLT goes on
(rules R40, R254, R331; decision D9; log entry 2). -/
def Obligations.HaltingIsAResult : Prop :=
  (∀ s : State, config.haltBoundary ≤ s.pc.toNat →
    step s = .next (s.setLastResult (.halted .boundary)) ∧
      step (s.setLastResult (.halted .boundary)) = .next (s.setLastResult (.halted .boundary))) ∧
  (∀ s : State, s.pc.toNat < config.haltBoundary → s.mem.read s.pc.toNat = 0x76 →
    step s = .next ((s.setPc (s.pc + 1)).setLastResult (.halted .hlt))) ∧
  Encoded .hlt [0x76] ∧
  (∀ s : State, exec .hlt s = .next (s.setLastResult (.halted .hlt))) ∧
  (∀ (s : State) (r : StepResult), execute (s.setLastResult r) = execute s)

/-- Zero bytes are NOPs: a run slides over `n` of them, and from reset with nothing loaded it makes 0x1000 steps and
then halts at the boundary (rule R363, derived; the zero bytes at reset are log entry 3). -/
def Obligations.NopSlide : Prop :=
  (∀ (n : Nat) (s : State), s.lastResult = .cont → s.pc.toNat + n ≤ config.haltBoundary →
    (∀ k, k < n → s.mem.read (s.pc.toNat + k) = 0x00) →
    core.run n s = .next (s.setPc (s.pc + BitVec.ofNat 16 n))) ∧
  (∃ e, runToEnd 0x1001 State.reset = some e ∧
    e.left = (State.reset.setPc 0xD000).setLastResult (.halted .boundary)) ∧
  runToEnd 0x1000 State.reset = none

/-- Every step keeps both arrays in their canonical form: indices strictly rising, inside the array, and no listed
cell that reads as an unlisted one. -/
def Obligations.EveryStepKeepsCanonicalState : Prop :=
  ∀ s t : State, s.wf = true → step s = .next t → t.wf = true

/-- The state after reset has the canonical form. -/
def Obligations.ResetMeetsInvariant : Prop := State.reset.wf = true

/-- The state after reset (rules R41, R360). PC is the document's; the other registers, the flags and the arrays are
the spec's decisions D6 and D7 (log entries 3 and 4). -/
def Obligations.ResetState : Prop :=
  State.reset.pc = 0xC000 ∧ State.reset.sp = 0x0000 ∧
    (∀ r : Reg8, State.reset.readReg8 r = 0x00) ∧ (∀ f : FlagName, State.reset.flags.get f = false) ∧
    (∀ k : Nat, State.reset.mem.read k = 0x00 ∧ State.reset.io.read k = 0x00) ∧
    ∀ (cfg : Config) (mem io : Memory), (State.launch cfg mem io).pc = cfg.codeOrigin ∧
      (State.launch cfg mem io).mem = mem ∧ (State.launch cfg mem io).io = io

/-! ### What instructions leave unchanged -/

/-- Rule R30: the flags an instruction does not write keep their values; the flags its table gives as 1 or 0 have
that value; and only the flags its readers line names influence it. -/
def Obligations.FlagTable : Prop :=
  (∀ (i : Instr) (s t : State), exec i s = .next t → ∀ f, f ∉ flagsWritten i → t.flags.get f = s.flags.get f) ∧
  (∀ (s t : State) (r : Reg8) (v : Byte), (exec (.ana r) s = .next t ∨ exec (.ani v) s = .next t) →
    t.flags.ac = true ∧ t.flags.cy = false) ∧
  (∀ (s t : State) (r : Reg8) (v : Byte),
    (exec (.xra r) s = .next t ∨ exec (.ora r) s = .next t ∨ exec (.xri v) s = .next t ∨
      exec (.ori v) s = .next t) → t.flags.ac = false ∧ t.flags.cy = false) ∧
  (∀ s t : State, exec .stc s = .next t → t.flags.cy = true) ∧
  (∀ (i : Instr) (s t t' : State) (fl : Flags), (∀ f ∈ flagsRead i, fl.get f = s.flags.get f) →
    exec i s = .next t → exec i (s.setFlags fl) = .next t' →
    t'.setFlags t.flags = t ∧ ∀ f ∈ flagsWritten i, t'.flags.get f = t.flags.get f)

/-- An instruction changes no register but those its rule writes, SP and PC included (rules R22, R27, R29); only HLT
reports something (log entry 2). -/
def Obligations.OnlyListedRegistersChange : Prop :=
  ∀ (i : Instr) (s t : State), exec i s = .next t →
    (∀ r : Reg8, r ≠ .m → r ∉ regsWritten i → t.readReg8 r = s.readReg8 r) ∧
      (movesSp i = false → t.sp = s.sp) ∧ (transfersControl i = false → t.pc = s.pc) ∧
      (i ≠ .hlt → t.lastResult = s.lastResult)

/-- An instruction changes no cell of memory or IO but those its rule stores to, at the address its rule computes
(rules R57, R59, R62, R64, R69). -/
def Obligations.OnlyComputedCellsChange : Prop :=
  ∀ (i : Instr) (s t : State), s.wf = true → exec i s = .next t →
    (∀ k, k ∉ storedCells i s → t.mem.read k = s.mem.read k) ∧
      ∀ k, k ∉ storedPorts i → t.io.read k = s.io.read k

/-- No instruction reads or writes the IO guard byte: whatever it holds, the result is the same but for it. The memory
guard byte changes only by a 16-bit store at 0xFFFF: SHLD, XTHL, or an instruction that pushes with SP at 1 (rules R52,
R58, R59, R61, R62; decision D4, log entry 13). -/
def Obligations.GuardBytes : Prop :=
  ∀ (i : Instr) (s t : State), s.wf = true → exec i s = .next t →
    t.io.read 0x100 = s.io.read 0x100 ∧
      (∀ v : Byte, exec i (s.setIo (s.io.write 0x100 v)) = .next (t.setIo (t.io.write 0x100 v))) ∧
      (t.mem.read 0x10000 = s.mem.read 0x10000 ∨ i = .shld 0xFFFF ∨ (i = .xthl ∧ s.sp = 0xFFFF) ∨
        (storedCells i s = pushCells s ∧ s.sp = 0x0001))

/-- Rule R51: an instruction other than IN and OUT neither reads nor writes IO, and an instruction outside the
rule's list neither reads nor writes memory beyond its fetch. -/
def Obligations.SpacesReachedOnlyByTheirInstructions : Prop :=
  ∀ (i : Instr) (s t : State) (m : Memory), exec i s = .next t →
    (reachesIo i = false → exec i (s.setIo m) = .next (t.setIo m)) ∧
      (reachesMemory i = false → exec i (s.setMem m) = .next (t.setMem m))

/-! ### Memory and the bus -/

/-- Rule R57: a byte written to memory is read back, and no other cell and no other part of the state changes. -/
def Obligations.ByteReadAfterWrite : Prop :=
  ∀ (s : State) (addr : Word) (v : Byte), s.wf = true →
    (s.memWrite8 addr v).memRead8 addr = v ∧
      (∀ k, k ≠ addr.toNat → (s.memWrite8 addr v).mem.read k = s.mem.read k) ∧
      (s.memWrite8 addr v).setMem s.mem = s ∧ (s.memWrite8 addr v).wf = true

/-- A 16-bit access is little-endian and does not wrap: at 0xFFFF its high byte is the guard byte (rules R58, R59,
R65, R67; decisions D3, D4). -/
def Obligations.WordAccessLittleEndian : Prop :=
  (∀ (s : State) (addr : Word),
    (s.memRead16 addr).toNat = (s.mem.read addr.toNat).toNat + 256 * (s.mem.read (addr.toNat + 1)).toNat) ∧
  (∀ (s : State) (addr v : Word), s.wf = true →
    HoldsWord (s.memWrite16 addr v) addr.toNat v ∧ (s.memWrite16 addr v).memRead16 addr = v ∧
      (∀ k, k ∉ wordCells addr → (s.memWrite16 addr v).mem.read k = s.mem.read k) ∧
      (s.memWrite16 addr v).setMem s.mem = s ∧ (s.memWrite16 addr v).wf = true) ∧
  wordCells 0xFFFF = [0xFFFF, 0x10000]

/-- The bus refuses an index beyond an array, and a word access whose second byte is; inside the array the word
operations exist in both byte orders (rules R52, R55, R60, R61, R334). -/
def Obligations.BusRefusesBeyondTheArray : Prop :=
  Space.cells .mem = 0x10001 ∧ Space.cells .io = 0x101 ∧
  ∀ (s : State) (space : Space) (k : Nat) (v : Byte) (w : Word), s.wf = true →
    (k < space.cells → s.busGet8 space k = .ok ((s.array space).read k) ∧
      ∃ t, s.busSet8 space k v = .ok t ∧ t.busGet8 space k = .ok v) ∧
    (space.cells ≤ k → s.busGet8 space k = .error (.busFault k) ∧
      s.busSet8 space k v = .error (.busFault k)) ∧
    (k + 1 < space.cells →
      s.busGet16 space k = .ok (joinBytes ((s.array space).read k) ((s.array space).read (k + 1))) ∧
      s.busGet16Reverse space k =
        .ok (joinBytes ((s.array space).read (k + 1)) ((s.array space).read k)) ∧
      (∃ t, s.busSet16 space k w = .ok t ∧ t.busGet16 space k = .ok w) ∧
      ∃ t, s.busSet16Reverse space k w = .ok t ∧ t.busGet16Reverse space k = .ok w) ∧
    (space.cells ≤ k + 1 → ∃ j, space.cells ≤ j ∧ s.busGet16 space k = .error (.busFault j) ∧
      s.busGet16Reverse space k = .error (.busFault j) ∧ s.busSet16 space k w = .error (.busFault j) ∧
      s.busSet16Reverse space k w = .error (.busFault j))

/-! ### Data transfer -/

/-- Rule R111, every operand pair but M,M, whose byte is HLT. -/
def Obligations.MovCopiesTheSource : Prop :=
  (∀ (dst src : Reg8) (s : State), s.wf = true → ¬(dst = .m ∧ src = .m) →
    Encoded (.mov dst src) [0x40 + 8 * dst.code + src.code] ∧
      ∃ t, exec (.mov dst src) s = .next t ∧
        (dst ≠ .m → t.readReg8 dst = s.readReg8 src) ∧
        (dst = .m → t.mem.read s.hl.toNat = s.readReg8 src) ∧
        (dst = src → t = s) ∧ KeepsSpPcFlags s t ∧ Frame [dst] (reg8Cells dst s) [] s t) ∧
  ∀ rest, decode (0x76 :: rest) = .ok .hlt rest

/-- Rule R112, every destination. -/
def Obligations.MviLoadsTheByte : Prop :=
  ∀ (dst : Reg8) (v : Byte) (s : State), s.wf = true →
    Encoded (.mvi dst v) [0x06 + 8 * dst.code, v] ∧
      ∃ t, exec (.mvi dst v) s = .next t ∧ (dst ≠ .m → t.readReg8 dst = v) ∧
        (dst = .m → t.mem.read s.hl.toNat = v) ∧ KeepsSpPcFlags s t ∧
        Frame [dst] (reg8Cells dst s) [] s t

/-- Rule R113: the high register holds bits 15:8 of the word, the low one bits 7:0; code 3 is SP. -/
def Obligations.LxiLoadsTheWord : Prop :=
  ∀ (p : Pair) (v : Word) (s : State),
    EncodedWord (.lxi p v) (0x01 + 16 * p.code) v ∧
      ∃ t, exec (.lxi p v) s = .next t ∧
        (p = .bc → Halves t.b t.c v) ∧ (p = .de → Halves t.d t.e v) ∧ (p = .hl → Halves t.h t.l v) ∧
        t.sp = (if p = .sp then v else s.sp) ∧ t.pc = s.pc ∧ t.flags = s.flags ∧
        Frame (pairHalves p) [] [] s t

/-- Rules R114 and R116: A is stored at BC, at DE or at the address. -/
def Obligations.StaxAndStaStoreA : Prop :=
  (∀ (p : IndexPair) (s : State), s.wf = true →
    Encoded (.stax p) [if p = .bc then 0x02 else 0x12] ∧
      ∃ t, exec (.stax p) s = .next t ∧
        t.mem.read (if p = .bc then s.bc.toNat else s.de.toNat) = s.a ∧ KeepsSpPcFlags s t ∧
        Frame [] [if p = .bc then s.bc.toNat else s.de.toNat] [] s t) ∧
  ∀ (addr : Word) (s : State), s.wf = true →
    EncodedWord (.sta addr) 0x32 addr ∧
      ∃ t, exec (.sta addr) s = .next t ∧ t.mem.read addr.toNat = s.a ∧ KeepsSpPcFlags s t ∧
        Frame [] [addr.toNat] [] s t

/-- Rules R115 and R117: A is loaded from BC, from DE or from the address. The bytes that the pair codes 2 and 3 would
give LDAX are those of LHLD and LDA. -/
def Obligations.LdaxAndLdaLoadA : Prop :=
  (∀ (p : IndexPair) (s : State),
    Encoded (.ldax p) [if p = .bc then 0x0A else 0x1A] ∧
      ∃ t, exec (.ldax p) s = .next t ∧
        t.a = s.mem.read (if p = .bc then s.bc.toNat else s.de.toNat) ∧ KeepsSpPcFlags s t ∧
        Frame [.a] [] [] s t) ∧
  ∀ (addr : Word) (s : State),
    EncodedWord (.lhld addr) 0x2A addr ∧ EncodedWord (.lda addr) 0x3A addr ∧
      ∃ t, exec (.lda addr) s = .next t ∧ t.a = s.mem.read addr.toNat ∧ KeepsSpPcFlags s t ∧
        Frame [.a] [] [] s t

/-- Rules R118 and R119: L at the address, H at the next index, which at 0xFFFF is the guard byte. -/
def Obligations.ShldAndLhldMoveHl : Prop :=
  (∀ (addr : Word) (s : State), s.wf = true →
    EncodedWord (.shld addr) 0x22 addr ∧
      ∃ t, exec (.shld addr) s = .next t ∧ t.mem.read addr.toNat = s.l ∧
        t.mem.read (addr.toNat + 1) = s.h ∧ KeepsSpPcFlags s t ∧
        Frame [] [addr.toNat, addr.toNat + 1] [] s t) ∧
  ∀ (addr : Word) (s : State),
    EncodedWord (.lhld addr) 0x2A addr ∧
      ∃ t, exec (.lhld addr) s = .next t ∧ t.l = s.mem.read addr.toNat ∧
        t.h = s.mem.read (addr.toNat + 1) ∧ KeepsSpPcFlags s t ∧ Frame [.h, .l] [] [] s t

/-- Rules R120, R133 and R134: XCHG swaps HL with DE, XTHL swaps HL with the word at SP and leaves SP, SPHL loads SP
from HL. -/
def Obligations.XchgXthlSphlMoveHl : Prop :=
  (∀ s : State, Encoded .xchg [0xEB] ∧
    ∃ t, exec .xchg s = .next t ∧ t.h = s.d ∧ t.l = s.e ∧ t.d = s.h ∧ t.e = s.l ∧ KeepsSpPcFlags s t ∧
      Frame [.d, .e, .h, .l] [] [] s t) ∧
  (∀ s : State, s.wf = true → Encoded .xthl [0xE3] ∧
    ∃ t, exec .xthl s = .next t ∧ t.l = s.mem.read s.sp.toNat ∧ t.h = s.mem.read (s.sp.toNat + 1) ∧
      t.mem.read s.sp.toNat = s.l ∧ t.mem.read (s.sp.toNat + 1) = s.h ∧ KeepsSpPcFlags s t ∧
      Frame [.h, .l] [s.sp.toNat, s.sp.toNat + 1] [] s t) ∧
  ∀ s : State, Encoded .sphl [0xF9] ∧
    ∃ t, exec .sphl s = .next t ∧ Halves s.h s.l t.sp ∧ t.pc = s.pc ∧ t.flags = s.flags ∧
      Frame [] [] [] s t

/-! ### Stack -/

/-- PUSH (rule R131): SP moves down by 2, the low half is at SP and the high half above it; the flag byte of the PSW is
S Z 0 AC 0 P 0 CY (rule R33; its zero bits are decision D18). -/
def Obligations.PushStoresTheWord : Prop :=
  ∀ (p : StackPair) (s : State), s.wf = true →
    Encoded (.push p) [0xC5 + 16 * p.code] ∧
      ∃ t, exec (.push p) s = .next t ∧ t.sp = s.sp - 2 ∧ t.pc = s.pc ∧ t.flags = s.flags ∧
        (p = .bc → t.mem.read (s.sp - 2).toNat = s.c ∧ t.mem.read ((s.sp - 2).toNat + 1) = s.b) ∧
        (p = .de → t.mem.read (s.sp - 2).toNat = s.e ∧ t.mem.read ((s.sp - 2).toNat + 1) = s.d) ∧
        (p = .hl → t.mem.read (s.sp - 2).toNat = s.l ∧ t.mem.read ((s.sp - 2).toNat + 1) = s.h) ∧
        (p = .psw → t.mem.read ((s.sp - 2).toNat + 1) = s.a ∧
          (t.mem.read (s.sp - 2).toNat).toNat = 128 * s.flags.s.toNat + 64 * s.flags.z.toNat +
            16 * s.flags.ac.toNat + 4 * s.flags.p.toNat + s.flags.cy.toNat) ∧
        Frame [] [(s.sp - 2).toNat, (s.sp - 2).toNat + 1] [] s t

/-- Rule R132: the word at SP goes to the pair, or to A and the flags, and SP moves up by 2. -/
def Obligations.PopLoadsTheWord : Prop :=
  ∀ (p : StackPair) (s : State),
    Encoded (.pop p) [0xC1 + 16 * p.code] ∧
      ∃ t, exec (.pop p) s = .next t ∧ t.sp = s.sp + 2 ∧ t.pc = s.pc ∧
        (p = .bc → t.c = s.mem.read s.sp.toNat ∧ t.b = s.mem.read (s.sp.toNat + 1)) ∧
        (p = .de → t.e = s.mem.read s.sp.toNat ∧ t.d = s.mem.read (s.sp.toNat + 1)) ∧
        (p = .hl → t.l = s.mem.read s.sp.toNat ∧ t.h = s.mem.read (s.sp.toNat + 1)) ∧
        (p = .psw → t.a = s.mem.read (s.sp.toNat + 1) ∧
          t.flags.s = (s.mem.read s.sp.toNat).getLsbD 7 ∧ t.flags.z = (s.mem.read s.sp.toNat).getLsbD 6 ∧
          t.flags.ac = (s.mem.read s.sp.toNat).getLsbD 4 ∧ t.flags.p = (s.mem.read s.sp.toNat).getLsbD 2 ∧
          t.flags.cy = (s.mem.read s.sp.toNat).getLsbD 0) ∧
        (p ≠ .psw → t.flags = s.flags) ∧ Frame (stackPairRegs p) [] [] s t

/-- A PUSH followed by the POP of the same operand restores everything but the two stack bytes, wherever SP is (rules
R64, R131, R132; the guard byte at SP = 1 is decision D4, log entry 13). -/
def Obligations.PushThenPopRestores : Prop :=
  ∀ (p : StackPair) (s : State), s.wf = true →
    ∃ t u, exec (.push p) s = .next t ∧ exec (.pop p) t = .next u ∧ u.setMem s.mem = s ∧
      ∀ k, k ∉ pushCells s → u.mem.read k = s.mem.read k

/-! ### Arithmetic -/

/-- ADD, ADC, ADI and ACI (rules R140, R142, R143, R146, R147): the carries are those of the unreduced sum (decision
D12). -/
def Obligations.AddFamily : Prop :=
  ∀ (s : State) (src : Reg8) (v : Byte),
    Encoded (.add src) [0x80 + src.code] ∧ AddsToA (.add src) s (s.readReg8 src) false ∧
      Encoded (.adc src) [0x88 + src.code] ∧ AddsToA (.adc src) s (s.readReg8 src) s.flags.cy ∧
      Encoded (.adi v) [0xC6, v] ∧ AddsToA (.adi v) s v false ∧
      Encoded (.aci v) [0xCE, v] ∧ AddsToA (.aci v) s v s.flags.cy

/-- SUB, SBB, SUI and SBI, and the compares CMP and CPI that do not write A (rules R141, R144, R145, R148, R149, R174,
R178): CY and AC are borrows (decision D13, log entry 5). -/
def Obligations.SubtractFamily : Prop :=
  ∀ (s : State) (src : Reg8) (v : Byte),
    Encoded (.sub src) [0x90 + src.code] ∧ SubtractsFromA (.sub src) s (s.readReg8 src) false ∧
      Encoded (.sbb src) [0x98 + src.code] ∧ SubtractsFromA (.sbb src) s (s.readReg8 src) s.flags.cy ∧
      Encoded (.sui v) [0xD6, v] ∧ SubtractsFromA (.sui v) s v false ∧
      Encoded (.sbi v) [0xDE, v] ∧ SubtractsFromA (.sbi v) s v s.flags.cy ∧
      Encoded (.cmp src) [0xB8 + src.code] ∧ ComparesWithA (.cmp src) s (s.readReg8 src) ∧
      Encoded (.cpi v) [0xFE, v] ∧ ComparesWithA (.cpi v) s v

/-- INR (rule R150), the same for M as for a register (decision D14, log entry 6): CY is kept. -/
def Obligations.InrIncrements : Prop :=
  ∀ (r : Reg8) (s : State), s.wf = true →
    Encoded (.inr r) [0x04 + 8 * r.code] ∧
      ∃ t, exec (.inr r) s = .next t ∧ ∃ res : Byte, res.toNat = ((s.readReg8 r).toNat + 1) % 256 ∧
        (r ≠ .m → t.readReg8 r = res) ∧ (r = .m → t.mem.read s.hl.toNat = res) ∧
        (t.flags.ac = true ↔ (s.readReg8 r).toNat % 16 = 15) ∧ ResultFlags t.flags res ∧
        t.flags.cy = s.flags.cy ∧ t.sp = s.sp ∧ t.pc = s.pc ∧ Frame [r] (reg8Cells r s) [] s t

/-- DCR (rule R151), the same for M as for a register (decision D14, log entry 6): AC is a borrow, CY is kept. -/
def Obligations.DcrDecrements : Prop :=
  ∀ (r : Reg8) (s : State), s.wf = true →
    Encoded (.dcr r) [0x05 + 8 * r.code] ∧
      ∃ t, exec (.dcr r) s = .next t ∧ ∃ res : Byte, res.toNat = ((s.readReg8 r).toNat + 255) % 256 ∧
        (r ≠ .m → t.readReg8 r = res) ∧ (r = .m → t.mem.read s.hl.toNat = res) ∧
        (t.flags.ac = true ↔ (s.readReg8 r).toNat % 16 = 0) ∧ ResultFlags t.flags res ∧
        t.flags.cy = s.flags.cy ∧ t.sp = s.sp ∧ t.pc = s.pc ∧ Frame [r] (reg8Cells r s) [] s t

/-- INX and DCX (rules R152, R153): a pair or SP moves by one modulo 2^16 (decision D5) and no flag changes. -/
def Obligations.InxAndDcxStepAPair : Prop :=
  ∀ (p : Pair) (s : State),
    (Encoded (.inx p) [0x03 + 16 * p.code] ∧
      ∃ t, exec (.inx p) s = .next t ∧ (t.readPair p).toNat = ((s.readPair p).toNat + 1) % 65536 ∧
        (p ≠ .sp → t.sp = s.sp) ∧ t.pc = s.pc ∧ t.flags = s.flags ∧ Frame (pairHalves p) [] [] s t) ∧
    (Encoded (.dcx p) [0x0B + 16 * p.code] ∧
      ∃ t, exec (.dcx p) s = .next t ∧ (t.readPair p).toNat = ((s.readPair p).toNat + 65535) % 65536 ∧
        (p ≠ .sp → t.sp = s.sp) ∧ t.pc = s.pc ∧ t.flags = s.flags ∧ Frame (pairHalves p) [] [] s t)

/-- Rule R154: the 17-bit sum of HL and the pair is CY and HL; the other flags and the pair keep their values. -/
def Obligations.DadAddsToHl : Prop :=
  ∀ (p : Pair) (s : State),
    Encoded (.dad p) [0x09 + 16 * p.code] ∧
      ∃ t, exec (.dad p) s = .next t ∧
        256 * t.h.toNat + t.l.toNat + 65536 * t.flags.cy.toNat =
          256 * s.h.toNat + s.l.toNat + (s.readPair p).toNat ∧
        t.flags = { s.flags with cy := t.flags.cy } ∧ t.sp = s.sp ∧ t.pc = s.pc ∧
        Frame [.h, .l] [] [] s t

/-- DAA (rule R155): both tests use the old A, CY is never cleared, AC is the carry of the low adjustment (decision D16,
log entry 7). -/
def Obligations.DaaAdjusts : Prop :=
  ∀ s : State, Encoded .daa [0x27] ∧
    ∃ t, exec .daa s = .next t ∧ ∃ low high : Nat,
      low = (if s.a.toNat % 16 > 9 ∨ s.flags.ac = true then 0x06 else 0) ∧
      high = (if s.a.toNat > 0x99 ∨ s.flags.cy = true then 0x60 else 0) ∧
      t.a.toNat = (s.a.toNat + low + high) % 256 ∧
      (t.flags.ac = true ↔ s.a.toNat % 16 + low > 0xF) ∧
      (t.flags.cy = true ↔ s.a.toNat > 0x99 ∨ s.flags.cy = true) ∧
      ResultFlags t.flags t.a ∧ t.sp = s.sp ∧ t.pc = s.pc ∧ Frame [.a] [] [] s t

/-- What DAA is for: adding two packed decimal numbers, with or without a carry in, and adjusting gives the packed
decimal sum and the decimal carry (rule R155). -/
def Obligations.DecimalAddition : Prop :=
  ∀ (s : State) (v : Byte),
    s.a.toNat % 16 ≤ 9 → s.a.toNat / 16 ≤ 9 → v.toNat % 16 ≤ 9 → v.toNat / 16 ≤ 9 →
    (∃ t u, exec (.adi v) s = .next t ∧ exec .daa t = .next u ∧
      u.a.toNat % 16 ≤ 9 ∧ u.a.toNat / 16 ≤ 9 ∧
      10 * (u.a.toNat / 16) + u.a.toNat % 16 + 100 * u.flags.cy.toNat =
        10 * (s.a.toNat / 16) + s.a.toNat % 16 + (10 * (v.toNat / 16) + v.toNat % 16)) ∧
    (∃ t u, exec (.aci v) s = .next t ∧ exec .daa t = .next u ∧
      u.a.toNat % 16 ≤ 9 ∧ u.a.toNat / 16 ≤ 9 ∧
      10 * (u.a.toNat / 16) + u.a.toNat % 16 + 100 * u.flags.cy.toNat =
        10 * (s.a.toNat / 16) + s.a.toNat % 16 + (10 * (v.toNat / 16) + v.toNat % 16) + s.flags.cy.toNat)

/-! ### Logical, rotates, flags -/

/-- ANA, XRA, ORA and their immediate forms (rules R170 to R173, R175 to R177): AC is 1 for the AND and 0 for the others,
CY is 0 (decision D15, log entry 7). -/
def Obligations.LogicalFamily : Prop :=
  ∀ (s : State) (src : Reg8) (v : Byte),
    Encoded (.ana src) [0xA0 + src.code] ∧
      LogicalResult (.ana src) s (fun k => s.a.getLsbD k && (s.readReg8 src).getLsbD k) true ∧
      Encoded (.xra src) [0xA8 + src.code] ∧
      LogicalResult (.xra src) s (fun k => s.a.getLsbD k != (s.readReg8 src).getLsbD k) false ∧
      Encoded (.ora src) [0xB0 + src.code] ∧
      LogicalResult (.ora src) s (fun k => s.a.getLsbD k || (s.readReg8 src).getLsbD k) false ∧
      Encoded (.ani v) [0xE6, v] ∧
      LogicalResult (.ani v) s (fun k => s.a.getLsbD k && v.getLsbD k) true ∧
      Encoded (.xri v) [0xEE, v] ∧
      LogicalResult (.xri v) s (fun k => s.a.getLsbD k != v.getLsbD k) false ∧
      Encoded (.ori v) [0xF6, v] ∧
      LogicalResult (.ori v) s (fun k => s.a.getLsbD k || v.getLsbD k) false

/-- The four rotates, bit by bit (rules R179 to R182; decision D17, log entry 7). -/
def Obligations.RotateFamily : Prop :=
  ∀ s : State,
    Encoded .rlc [0x07] ∧
      RotatesA .rlc s (fun k => if k = 0 then s.a.getLsbD 7 else s.a.getLsbD (k - 1)) (s.a.getLsbD 7) ∧
      Encoded .rrc [0x0F] ∧
      RotatesA .rrc s (fun k => if k = 7 then s.a.getLsbD 0 else s.a.getLsbD (k + 1)) (s.a.getLsbD 0) ∧
      Encoded .ral [0x17] ∧
      RotatesA .ral s (fun k => if k = 0 then s.flags.cy else s.a.getLsbD (k - 1)) (s.a.getLsbD 7) ∧
      Encoded .rar [0x1F] ∧
      RotatesA .rar s (fun k => if k = 7 then s.flags.cy else s.a.getLsbD (k + 1)) (s.a.getLsbD 0)

/-- RAR undoes RAL and RAL undoes RAR, CY included; RRC undoes RLC in A, and RLC undoes RRC (rules R179 to R182). -/
def Obligations.RotatesUndoEachOther : Prop :=
  ∀ s : State,
    (∃ t, exec .ral s = .next t ∧ exec .rar t = .next s) ∧
      (∃ t, exec .rar s = .next t ∧ exec .ral t = .next s) ∧
      (∃ t u, exec .rlc s = .next t ∧ exec .rrc t = .next u ∧ u.setFlags s.flags = s) ∧
      ∃ t u, exec .rrc s = .next t ∧ exec .rlc t = .next u ∧ u.setFlags s.flags = s

/-- Rules R183 to R185: CMA complements A and writes no flag, and two of them restore A; STC and CMC write CY alone. STC
then CMC clears CY, and so does ANA A, which keeps A; no instruction does just that in every state. -/
def Obligations.CmaStcCmc : Prop :=
  (∀ s : State,
    (Encoded .cma [0x2F] ∧ ∃ t, exec .cma s = .next t ∧ t.a.toNat = 255 - s.a.toNat ∧ KeepsSpPcFlags s t ∧
      Frame [.a] [] [] s t) ∧
    (Encoded .stc [0x37] ∧ ∃ t, exec .stc s = .next t ∧ t.flags = { s.flags with cy := true } ∧
      t.sp = s.sp ∧ t.pc = s.pc ∧ Frame [] [] [] s t) ∧
    (Encoded .cmc [0x3F] ∧ ∃ t, exec .cmc s = .next t ∧ t.flags = { s.flags with cy := !s.flags.cy } ∧
      t.sp = s.sp ∧ t.pc = s.pc ∧ Frame [] [] [] s t) ∧
    (∃ t, exec .cma s = .next t ∧ exec .cma t = .next s) ∧
    (∃ t, exec .stc s = .next t ∧ exec .cmc t = .next (s.setFlags { s.flags with cy := false })) ∧
    ∃ t, exec (.ana .a) s = .next t ∧ t.flags.cy = false ∧ t.a = s.a) ∧
  ∀ i : Instr, ∃ s : State, exec i s ≠ .next (s.setFlags { s.flags with cy := false })

/-! ### Control transfer -/

/-- Rules R202 to R210: a jump goes to the absolute address when its condition holds, and otherwise falls through; it
writes no flag, no register and no cell. -/
def Obligations.Jumps : Prop :=
  ∀ (s : State) (a : Word),
    (EncodedWord (.jmp a) 0xC3 a ∧ JumpsTo (.jmp a) s true a) ∧
      (EncodedWord (.jnz a) 0xC2 a ∧ JumpsTo (.jnz a) s (!s.flags.z) a) ∧
      (EncodedWord (.jz a) 0xCA a ∧ JumpsTo (.jz a) s s.flags.z a) ∧
      (EncodedWord (.jnc a) 0xD2 a ∧ JumpsTo (.jnc a) s (!s.flags.cy) a) ∧
      (EncodedWord (.jc a) 0xDA a ∧ JumpsTo (.jc a) s s.flags.cy a) ∧
      (EncodedWord (.jpo a) 0xE2 a ∧ JumpsTo (.jpo a) s (!s.flags.p) a) ∧
      (EncodedWord (.jpe a) 0xEA a ∧ JumpsTo (.jpe a) s s.flags.p a) ∧
      (EncodedWord (.jp a) 0xF2 a ∧ JumpsTo (.jp a) s (!s.flags.s) a) ∧
      (EncodedWord (.jm a) 0xFA a ∧ JumpsTo (.jm a) s s.flags.s a)

/-- Rules R211 to R219: a call that is taken pushes the address of the next instruction, low byte at the new SP, and
goes to its target; one that is not taken changes nothing. -/
def Obligations.Calls : Prop :=
  ∀ (s : State) (a : Word), s.wf = true →
    (EncodedWord (.call a) 0xCD a ∧ CallsTo (.call a) s a) ∧
      (EncodedWord (.cnz a) 0xC4 a ∧ CallsWhen (.cnz a) s (!s.flags.z) a) ∧
      (EncodedWord (.cz a) 0xCC a ∧ CallsWhen (.cz a) s s.flags.z a) ∧
      (EncodedWord (.cnc a) 0xD4 a ∧ CallsWhen (.cnc a) s (!s.flags.cy) a) ∧
      (EncodedWord (.cc a) 0xDC a ∧ CallsWhen (.cc a) s s.flags.cy a) ∧
      (EncodedWord (.cpo a) 0xE4 a ∧ CallsWhen (.cpo a) s (!s.flags.p) a) ∧
      (EncodedWord (.cpe a) 0xEC a ∧ CallsWhen (.cpe a) s s.flags.p a) ∧
      (EncodedWord (.cp a) 0xF4 a ∧ CallsWhen (.cp a) s (!s.flags.s) a) ∧
      (EncodedWord (.cm a) 0xFC a ∧ CallsWhen (.cm a) s s.flags.s a)

/-- Rules R220 to R228: a return that is taken pops PC; one that is not taken changes nothing. -/
def Obligations.Returns : Prop :=
  ∀ s : State,
    (Encoded .ret [0xC9] ∧ ReturnsTo .ret s) ∧
      (Encoded .rnz [0xC0] ∧ ReturnsWhen .rnz s (!s.flags.z)) ∧
      (Encoded .rz [0xC8] ∧ ReturnsWhen .rz s s.flags.z) ∧
      (Encoded .rnc [0xD0] ∧ ReturnsWhen .rnc s (!s.flags.cy)) ∧
      (Encoded .rc [0xD8] ∧ ReturnsWhen .rc s s.flags.cy) ∧
      (Encoded .rpo [0xE0] ∧ ReturnsWhen .rpo s (!s.flags.p)) ∧
      (Encoded .rpe [0xE8] ∧ ReturnsWhen .rpe s s.flags.p) ∧
      (Encoded .rp [0xF0] ∧ ReturnsWhen .rp s (!s.flags.s)) ∧
      (Encoded .rm [0xF8] ∧ ReturnsWhen .rm s s.flags.s)

/-- A RET right after a CALL or an RST comes back to the instruction after it, with SP, every register and flag and
every cell but the two stack bytes as before (rules R211, R220, R231, R233; decisions D4, D19, log entries 7, 13). -/
def Obligations.ReturnComesBack : Prop :=
  ∀ (s : State) (a : Word) (n : BitVec 3), s.wf = true →
    (∃ t u, exec (.call a) s = .next t ∧ t.pc = a ∧ exec .ret t = .next u ∧ u.setMem s.mem = s ∧
        ∀ k, k ∉ pushCells s → u.mem.read k = s.mem.read k) ∧
      ∃ t u, exec (.rst n) s = .next t ∧ t.pc.toNat = 8 * n.toNat ∧ exec .ret t = .next u ∧
        u.setMem s.mem = s ∧ ∀ k, k ∉ pushCells s → u.mem.read k = s.mem.read k

/-- RST and PCHL (rules R231, R232; decisions D19, D21, log entry 7). -/
def Obligations.RstAndPchl : Prop :=
  (∀ (n : BitVec 3) (s : State), s.wf = true →
    Encoded (.rst n) [BitVec.ofNat 8 (0xC7 + 8 * n.toNat)] ∧
      CallsTo (.rst n) s (BitVec.ofNat 16 (8 * n.toNat))) ∧
  ∀ s : State, Encoded .pchl [0xE9] ∧ JumpsTo .pchl s true s.hl

/-! ### Input, output, machine control -/

/-- IN and OUT (rules R62, R251, R252): they move A from and to the port's cell and touch no memory; that IO is plain
storage is decision D35 (log entry 8). -/
def Obligations.InAndOut : Prop :=
  (∀ (port : Byte) (s : State),
    Encoded (.in_ port) [0xDB, port] ∧
      ∃ t, exec (.in_ port) s = .next t ∧ t.a = s.io.read port.toNat ∧ KeepsSpPcFlags s t ∧
        Frame [.a] [] [] s t) ∧
  ∀ (port : Byte) (s : State), s.wf = true →
    Encoded (.out port) [0xD3, port] ∧
      ∃ t, exec (.out port) s = .next t ∧ t.io.read port.toNat = s.a ∧ KeepsSpPcFlags s t ∧
        Frame [] [] [port.toNat] s t

/-- NOP does nothing but move PC (rule R253); EI, DI, RIM and SIM are inert (rules R256 to R259; decision D11, log entry
9). -/
def Obligations.InertInstructions : Prop :=
  ∀ s : State,
    (Encoded .nop [0x00] ∧ exec .nop s = .next s) ∧ (Encoded .ei [0xFB] ∧ exec .ei s = .next s) ∧
      (Encoded .di [0xF3] ∧ exec .di s = .next s) ∧ (Encoded .rim [0x20] ∧ exec .rim s = .next s) ∧
      (Encoded .sim [0x30] ∧ exec .sim s = .next s)

/-! ### The instruction encoder -/

/-- A literal `0x` with hex digits or hex digits with `h` is lexed as a literal of their value when it fits 16 bits, and
as a name when it does not; every 16-bit value written out is read back (rules R279, R283, derived). -/
def Obligations.HexLiteralsRoundTrip : Prop :=
  (∀ w : Word, classify (hexText16 w) = .ok (.hexLiteral (hexText16 w)) ∧
    hexVal (hexText16 w) = some w.toNat) ∧
  ∀ (digits : Text) (n : Nat), digits ≠ [] → readHex 0 digits = some n →
    hexVal ('0' :: 'x' :: digits) = some n ∧ hexVal (digits ++ ['h']) = some n ∧
      (n ≤ 0xFFFF → classify ('0' :: 'x' :: digits) = .ok (.hexLiteral ('0' :: 'x' :: digits)) ∧
        classify (digits ++ ['h']) = .ok (.hexLiteral (digits ++ ['h']))) ∧
      (0xFFFF < n → classify ('0' :: 'x' :: digits) = .ok (.name ('0' :: 'x' :: digits)) ∧
        classify (digits ++ ['h']) = .ok (.name (digits ++ ['h'])))

/-- Assembling the statement of a well-formed instruction gives exactly its bytes (rules R100, R280, R317). -/
def Obligations.AssembledInstructionIsItsEncoding : Prop :=
  ∀ (i : Instr) (toks : List PosToken), i.wf = true → toks.map PosToken.tok = statementOf i ++ [.newLine] →
    assemble toks = .ok (encode i)

/-- Whatever assembles is a sequence of whole well-formed instructions that fits the space above the origin (rules R316,
R317). -/
def Obligations.AssembledProgramDecodes : Prop :=
  ∀ (toks : List PosToken) (code : List Byte), assemble toks = .ok code →
    code.length ≤ 0x4000 ∧ ∃ is : List Instr, (∀ i ∈ is, i.wf = true) ∧ code = is.flatMap encode

/-- A forward and a backward reference assemble to the label's address, a repeated label has its last address (decision
D30, log entry 11), and a reference to no label fails with its name (rules R305, R306, R320). The label may spell a
register, as rule R306 says (log entry 24). -/
def Obligations.LabelReferences : Prop :=
  ∀ (x : Text) (toks : List PosToken), findMnemonic x = none →
    (toks.map PosToken.tok = [.name ['J', 'M', 'P'], .name x, .newLine, .name x, .colon, .newLine] →
      assemble toks = .ok [0xC3, 0x03, 0xC0]) ∧
    (toks.map PosToken.tok = [.name x, .colon, .name ['j', 'm', 'p'], .name x, .newLine] →
      assemble toks = .ok [0xC3, 0x00, 0xC0]) ∧
    (toks.map PosToken.tok = [.name x, .colon, .name ['N', 'O', 'P'], .newLine, .name x, .colon,
        .name ['C', 'A', 'L', 'L'], .name x, .newLine] →
      assemble toks = .ok [0x00, 0xCD, 0x01, 0xC0]) ∧
    (toks.map PosToken.tok = [.name ['j', 'm', 'p'], .name x, .newLine] →
      assemble toks = .error { kind := .labelNotDefined x, pos := none })

/-- Rule R305: pass 2 writes each resolved address low byte first into its two reserved bytes and nothing else, fails at
the first name that is not declared, and runs only if pass 1 succeeded. -/
def Obligations.PassTwoResolvesReferences : Prop :=
  (∀ (labels : List (Text × Word)) (unres : List (Nat × Text)) (buf : List Byte),
    (∀ r ∈ unres, ∃ v, lookupText labels r.2 = some v) → (∀ r ∈ unres, r.1 + 1 < buf.length) →
    unres.Pairwise (fun r q => r.1 + 2 ≤ q.1) →
    ∃ out, passTwo labels unres buf = .ok out ∧ out.length = buf.length ∧
      (∀ r ∈ unres, ∀ v, lookupText labels r.2 = some v → ∃ lo hi, Halves hi lo v ∧
        out[r.1]? = some lo ∧ out[r.1 + 1]? = some hi) ∧
      ∀ k, (∀ r ∈ unres, k ≠ r.1 ∧ k ≠ r.1 + 1) → out[k]? = buf[k]?) ∧
  (∀ (labels : List (Text × Word)) (before after : List (Nat × Text)) (off : Nat) (name : Text)
    (buf : List Byte), (∀ r ∈ before, ∃ v, lookupText labels r.2 = some v) →
    lookupText labels name = none →
    passTwo labels (before ++ (off, name) :: after) buf =
      .error { kind := .labelNotDefined name, pos := none }) ∧
  ∀ (cfg : Config) (toks : List PosToken) (e : EncoderError), passOne cfg toks = .error e →
    assembleWith cfg toks = .error e

/-- Every step of pass 1 keeps the encoder's invariant: the queue holds operand states and one ending state, so it is
never empty, and the address counter is the origin plus the length of the buffer and never passes 0x10000; the first
state meets it (rules R284, R290, R316). -/
def Obligations.EncoderKeepsItsInvariant : Prop :=
  ∀ cfg : Config, (EncoderState.initial cfg).wf cfg = true ∧
    ∀ (s s' : EncoderState) (t : PosToken), s.wf cfg = true → passOneStep s t = .ok s' → s'.wf cfg = true

/-- Text never ends inside a statement, because every line ends with its token: the missing terminator is reported of
hand-made tokens alone (rules R278, R301). -/
def Obligations.TextNeverMissesATerminator : Prop :=
  ∀ (source : Text) (pos : Option Pos), assembleText source ≠ .error { kind := .missingTerminator, pos := pos }

/-! ### The host -/

/-- Rule R342: a program of at most 0x4000 bytes is loaded byte for byte at the code origin; nothing else is written. -/
def Obligations.LoadImagePlacesProgram : Prop :=
  ∀ (s : State) (code : List Byte), s.wf = true → code.length ≤ 0x4000 →
    ∃ t, s.loadImage code = .ok t ∧ t.wf = true ∧
      (∀ k, k < code.length → some (t.mem.read (0xC000 + k)) = code[k]?) ∧
      (∀ j, (j < 0xC000 ∨ 0xC000 + code.length ≤ j) → t.mem.read j = s.mem.read j) ∧
      t.setMem s.mem = s

/-- Applying the record of a step's changes gives back the state before the step, however the step ended (rule R346; the
record's layout is log entry 12). -/
def Obligations.UndoRestoresTheState : Prop :=
  ∀ s : State, s.wf = true → (s.diff (execute s).left).apply (execute s).left = s
end

