-- ==== Sys2Proof/Laws/Encoder.lean ====
section
/-! SUPPORT. The two readings of the encoder's source language (rule R372 against rules R270, R277 and R306; log entry
24): the strict one refuses programs and gives no program other bytes, and what it takes keeps both restrictions. -/

namespace Sys2Proof.Machine

/-! ### Pass 1 -/

/-- A strict step that succeeds is a step, and ends no label that spells a register name. -/
theorem strictStep_ok {s s' : EncoderState} {t : PosToken} (h : strictStep s t = .ok s') :
    passOneStep s t = .ok s' ∧ s.endsRegisterLabel t = false := by
  unfold strictStep at h
  split at h
  · cases h
  · next hn => exact ⟨h, Bool.eq_false_iff.mpr hn⟩

/-- A step in either reading that succeeds is a step of pass 1. -/
theorem passOneStepWith_ok {cfg : Config} {s s' : EncoderState} {t : PosToken}
    (h : passOneStepWith cfg s t = .ok s') : passOneStep s t = .ok s' := by
  unfold passOneStepWith at h
  split at h
  · exact (strictStep_ok h).1
  · exact h

/-- The parameters as they are, but for the reading, which is that of 49_encoder.md. -/
def lenient (cfg : Config) : Config := { cfg with strictSource := false }

theorem passOneTokens_lenient {cfg : Config} (tokens : List PosToken) {s s' : EncoderState}
    (h : passOneTokens cfg s tokens = .ok s') : passOneTokens (lenient cfg) s tokens = .ok s' := by
  induction tokens generalizing s with
  | nil => exact h
  | cons t rest ih =>
    unfold passOneTokens at h ⊢
    split at h
    · next u hu =>
      have hl : passOneStepWith (lenient cfg) s t = .ok u := passOneStepWith_ok hu
      rw [hl]
      exact ih h
    · cases h

theorem assembleWith_lenient {cfg : Config} {tokens : List PosToken} {code : List Byte}
    (h : assembleWith cfg tokens = .ok code) : assembleWith (lenient cfg) tokens = .ok code := by
  unfold assembleWith passOne at h ⊢
  split at h
  · next s hs =>
    split at hs
    · next u hu =>
      have hl : passOneTokens (lenient cfg) (EncoderState.initial (lenient cfg)) tokens = .ok u :=
        passOneTokens_lenient tokens hu
      rw [hl]
      simp only at hs ⊢
      rw [hs]
      exact h
    · cases hs
  · cases h

/-! ### The lexer -/

/-- What a bind that succeeds has done first. -/
theorem bind_ok {α β : Type} {x : Except EncoderError α} {f : α → Except EncoderError β} {b : β}
    (h : x.bind f = .ok b) : ∃ a, x = .ok a ∧ f a = .ok b := by
  cases x with
  | error e => cases h
  | ok a => exact ⟨a, rfl, h⟩

/-- A line that scans holds no `#`, if it has no comment. -/
theorem scan_ok_valid (line : Nat) (chars : Text) {col start : Nat} {buf : Text} {toks : List PosToken}
    (hc : ∀ c ∈ chars, c ≠ ';' ∧ c ≠ '/') (h : scan line col start buf chars = .ok toks) : '#' ∉ chars := by
  induction chars generalizing col start buf toks with
  | nil => exact List.not_mem_nil
  | cons c rest ih =>
    have hr : ∀ d ∈ rest, d ≠ ';' ∧ d ≠ '/' := fun d hd => hc d (List.mem_cons_of_mem _ hd)
    have hcc := hc c List.mem_cons_self
    unfold scan at h
    split at h
    · next heq => cases heq
    · next heq => cases heq; exact absurd rfl hcc.1
    · next heq => cases heq; exact absurd rfl hcc.2
    · next heq =>
      cases heq
      obtain ⟨_, -, h⟩ := bind_ok h
      obtain ⟨_, h, -⟩ := bind_ok h
      simpa using ih hr h
    · next heq =>
      cases heq
      obtain ⟨_, -, h⟩ := bind_ok h
      obtain ⟨_, h, -⟩ := bind_ok h
      simpa using ih hr h
    · next d _ _ _ _ _ heq =>
      cases heq
      split at h
      · next hw =>
        obtain ⟨_, -, h⟩ := bind_ok h
        obtain ⟨_, h, -⟩ := bind_ok h
        refine List.not_mem_cons_of_ne_of_not_mem ?_ (ih hr h)
        rintro rfl
        exact absurd hw (by decide)
      · split at h
        · next ha =>
          refine List.not_mem_cons_of_ne_of_not_mem ?_ (ih hr h)
          rintro rfl
          exact absurd ha (by decide)
        · cases h

theorem scanLines_ok_valid (lines : List Text) {line : Nat} {toks : List PosToken}
    (hc : ∀ l ∈ lines, ∀ c ∈ l, c ≠ ';' ∧ c ≠ '/') (h : scanLines line lines = .ok toks) :
    ∀ l ∈ lines, '#' ∉ l := by
  induction lines generalizing line toks with
  | nil => simp
  | cons l rest ih =>
    unfold scanLines at h
    obtain ⟨_, hl, h⟩ := bind_ok h
    obtain ⟨_, h, -⟩ := bind_ok h
    unfold scanLine at hl
    obtain ⟨_, hl, -⟩ := bind_ok hl
    intro k hk
    rcases List.mem_cons.mp hk with rfl | hk
    · exact scan_ok_valid line _ (hc _ List.mem_cons_self) hl
    · exact ih (fun m hm => hc m (List.mem_cons_of_mem _ hm)) h k hk

/-- The characters of the lines are those of the source but for the line ends. -/
theorem mem_splitLines (source : Text) {c : Char} (hn : c ≠ '\n') (hr : c ≠ '\r') :
    c ∈ source ↔ ∃ l ∈ splitLines source, c ∈ l := by
  induction source using splitLines.induct with
  | case1 => simp [splitLines]
  | case2 rest ih => simp [splitLines, ih, hn]
  | case3 rest ih => simp [splitLines, ih, hn, hr]
  | case4 d rest h1 h2 hs ih =>
    unfold splitLines
    simp_all
  | case5 d rest h1 h2 l ls hs ih =>
    unfold splitLines
    simp_all [or_assoc]

/-- A source without comment marks that is tokenized holds no `#`. -/
theorem tokenize_ok_valid {source : Text} {toks : List PosToken} (hc : ∀ c ∈ source, c ≠ ';' ∧ c ≠ '/')
    (h : tokenize source = .ok toks) : '#' ∉ source := by
  intro hm
  obtain ⟨l, hl, hm⟩ := (mem_splitLines source (by decide) (by decide)).mp hm
  refine scanLines_ok_valid _ (fun k hk c hcm => ⟨?_, ?_⟩) h l hl hm
  · rintro rfl
    exact (hc _ ((mem_splitLines source (by decide) (by decide)).mpr ⟨k, hk, hcm⟩)).1 rfl
  · rintro rfl
    exact (hc _ ((mem_splitLines source (by decide) (by decide)).mpr ⟨k, hk, hcm⟩)).2 rfl

/-- What is tokenized without comments holds no comment mark. -/
theorem refuseCommentMarks_ok {source : Text} {toks : List PosToken}
    (h : tokenize (refuseCommentMarks source) = .ok toks) : ∀ c ∈ source, c ≠ ';' ∧ c ≠ '/' := by
  have hv := tokenize_ok_valid (fun c hc => by
    obtain ⟨d, -, rfl⟩ := List.mem_map.mp hc
    split
    · decide
    · next hd => exact not_or.mp hd) h
  intro c hc
  rw [← not_or]
  intro hm
  exact hv (List.mem_map.mpr ⟨c, hc, if_pos hm⟩)

theorem refuseCommentMarks_eq {source : Text} (h : ∀ c ∈ source, c ≠ ';' ∧ c ≠ '/') :
    refuseCommentMarks source = source :=
  (List.map_congr_left fun c hc => if_neg (not_or.mpr (h c hc))).trans (List.map_id' source)

/-! ### Both -/

/-- What assembles in the strict reading holds no comment mark, and assembles to the same bytes in the lenient one. -/
theorem assembleTextWith_strict {cfg : Config} {source : Text} {code : List Byte} (hs : cfg.strictSource = true)
    (h : assembleTextWith cfg source = .ok code) :
    (∀ c ∈ source, c ≠ ';' ∧ c ≠ '/') ∧ assembleTextWith (lenient cfg) source = .ok code := by
  unfold assembleTextWith tokenizeWith at h
  rw [if_pos hs] at h
  split at h
  · next toks ht =>
    have hc := refuseCommentMarks_ok ht
    rw [refuseCommentMarks_eq hc] at ht
    have hl : tokenizeWith (lenient cfg) source = .ok toks := ht
    refine ⟨hc, ?_⟩
    unfold assembleTextWith
    rw [hl]
    exact assembleWith_lenient h
  · cases h

end Sys2Proof.Machine
end

