-- ==== Sys2Proof/Laws/Flags.lean ====
section
/-! SUPPORT. One lemma for each byte-order helper and for each ALU core, in numbers: what it answers, once, so
that no later proof unfolds it. -/

namespace Sys2Proof

/-! ### Words and bytes -/

@[simp] theorem loByte_joinBytes (hi lo : Byte) : loByte (joinBytes hi lo) = lo := by
  apply BitVec.eq_of_toNat_eq
  simp only [loByte, joinBytes, BitVec.extractLsb'_toNat, BitVec.toNat_append, Nat.shiftRight_zero]
  rw [← Nat.shiftLeft_add_eq_or_of_lt lo.isLt, Nat.shiftLeft_eq]
  have := lo.isLt
  omega

@[simp] theorem hiByte_joinBytes (hi lo : Byte) : hiByte (joinBytes hi lo) = hi := by
  apply BitVec.eq_of_toNat_eq
  simp only [hiByte, joinBytes, BitVec.extractLsb'_toNat, BitVec.toNat_append]
  rw [← Nat.shiftLeft_add_eq_or_of_lt lo.isLt, Nat.shiftLeft_eq, Nat.shiftRight_eq_div_pow]
  have := lo.isLt
  have := hi.isLt
  omega

theorem toNat_joinBytes (hi lo : Byte) : (joinBytes hi lo).toNat = 256 * hi.toNat + lo.toNat := by
  simp only [joinBytes, BitVec.toNat_append]
  rw [← Nat.shiftLeft_add_eq_or_of_lt lo.isLt, Nat.shiftLeft_eq]
  omega

theorem toNat_loByte (w : Word) : (loByte w).toNat = w.toNat % 256 := by
  simp [loByte, BitVec.extractLsb'_toNat]

theorem toNat_hiByte (w : Word) : (hiByte w).toNat = w.toNat / 256 := by
  simp only [hiByte, BitVec.extractLsb'_toNat, Nat.shiftRight_eq_div_pow]
  have := w.isLt
  omega

@[simp] theorem joinBytes_hiByte_loByte (w : Word) : joinBytes (hiByte w) (loByte w) = w := by
  apply BitVec.eq_of_toNat_eq
  rw [toNat_joinBytes, toNat_hiByte, toNat_loByte]
  omega

namespace Machine

/-! ### The flag byte (rule R33) -/

@[simp] theorem unpackFlags_packFlags (f : Flags) : unpackFlags (packFlags f) = f := by
  obtain ⟨s, z, ac, p, cy⟩ := f
  cases s <;> cases z <;> cases ac <;> cases p <;> cases cy <;> decide

/-! ### The result flags (rule R31) -/

theorem sign_iff (v : Byte) : v.getLsbD 7 = true ↔ 0x80 ≤ v.toNat := by
  have h := v.isLt
  rw [BitVec.getLsbD, Nat.testBit_eq_decide_div_mod_eq]
  simp only [decide_eq_true_eq]
  omega

theorem zero_iff (v : Byte) : (v == 0) = true ↔ v.toNat = 0 := by
  rw [beq_iff_eq]
  exact ⟨fun h => by rw [h]; rfl, fun h => BitVec.eq_of_toNat_eq h⟩

/-- `countOnes` is the number of indices below 8 whose bit is 1. -/
theorem countOnes_eq (v : Byte) :
    countOnes v = (List.range 8).countP (fun i => v.getLsbD i) := by
  simp only [countOnes, List.range, List.range.loop, List.countP_cons, List.countP_nil, Bool.toNat,
    cond_eq_ite]
  omega

/-! ### The cores of rules R140 and R141 in numbers -/

theorem addCore_sum (a v : Byte) (cin : Bool) :
    (addCore a v cin).res.toNat + 256 * (addCore a v cin).flags.cy.toNat =
      a.toNat + v.toNat + cin.toNat := by
  have ha := a.isLt
  have hv := v.isLt
  have hc := Bool.toNat_le cin
  simp only [addCore, szpFlags, BitVec.toNat_ofNat]
  by_cases h : a.toNat + v.toNat + cin.toNat > 0xFF
  · rw [decide_eq_true h, Bool.toNat_true]
    omega
  · rw [decide_eq_false h, Bool.toNat_false]
    omega

theorem addCore_ac (a v : Byte) (cin : Bool) :
    (addCore a v cin).flags.ac = true ↔ 16 ≤ a.toNat % 16 + v.toNat % 16 + cin.toNat := by
  rw [addCore, szpFlags, decide_eq_true_iff]
  simp only [lowNibble]
  omega

theorem subCore_diff (a v : Byte) (bin : Bool) :
    (subCore a v bin).res.toNat + v.toNat + bin.toNat =
      a.toNat + 256 * (subCore a v bin).flags.cy.toNat := by
  have ha := a.isLt
  have hv := v.isLt
  have hc := Bool.toNat_le bin
  simp only [subCore, szpFlags, BitVec.toNat_ofInt]
  by_cases h : (a.toNat : Int) - v.toNat - bin.toNat < 0
  · rw [decide_eq_true h, Bool.toNat_true]
    omega
  · rw [decide_eq_false h, Bool.toNat_false]
    omega

theorem subCore_ac (a v : Byte) (bin : Bool) :
    (subCore a v bin).flags.ac = true ↔ a.toNat % 16 < v.toNat % 16 + bin.toNat := by
  rw [subCore, szpFlags, decide_eq_true_iff]
  simp only [lowNibble]
  omega

end Machine

end Sys2Proof
end

