-- ==== Sys2Proof/Laws/Memory.lean ====
section
/-! SUPPORT. The laws of a byte array: reading after writing, every operation keeps the canonical form, and
canonical arrays with equal cells are equal. -/

namespace Sys2Proof.Machine

@[simp] theorem Memory.read_nil (i : Nat) : Memory.read [] i = fillByte := rfl

theorem Memory.read_cons (k : Nat) (w : Byte) (m : Memory) (i : Nat) :
    Memory.read ((k, w) :: m) i = if k = i then w else Memory.read m i := rfl

@[simp] theorem Memory.wfFrom_nil (cells low : Nat) : Memory.wfFrom cells low [] = true := rfl

theorem Memory.wfFrom_cons {cells low k : Nat} {w : Byte} {m : Memory} :
    Memory.wfFrom cells low ((k, w) :: m) = true ↔
      low ≤ k ∧ k < cells ∧ w ≠ fillByte ∧ Memory.wfFrom cells (k + 1) m = true := by
  simp [Memory.wfFrom, and_assoc]

/-- A lower bound of the indices may be lowered. -/
theorem Memory.wfFrom_mono {cells low low' : Nat} {m : Memory} (hle : low' ≤ low)
    (h : Memory.wfFrom cells low m = true) : Memory.wfFrom cells low' m = true := by
  cases m with
  | nil => rfl
  | cons cell m =>
    obtain ⟨k, w⟩ := cell
    rw [Memory.wfFrom_cons] at h ⊢
    exact ⟨by omega, h.2⟩

/-- Below the first index every cell reads as the fill byte. -/
theorem Memory.read_below {cells low i : Nat} {m : Memory}
    (h : Memory.wfFrom cells low m = true) (hi : i < low) : m.read i = fillByte := by
  induction m generalizing low with
  | nil => rfl
  | cons cell m ih =>
    obtain ⟨k, w⟩ := cell
    rw [Memory.wfFrom_cons] at h
    rw [Memory.read_cons, if_neg (by omega)]
    exact ih h.2.2.2 (by omega)

/-- Beyond the last cell every index reads as the fill byte. -/
theorem Memory.read_beyond {cells low i : Nat} {m : Memory}
    (h : Memory.wfFrom cells low m = true) (hi : cells ≤ i) : m.read i = fillByte := by
  induction m generalizing low with
  | nil => rfl
  | cons cell m ih =>
    obtain ⟨k, w⟩ := cell
    rw [Memory.wfFrom_cons] at h
    rw [Memory.read_cons, if_neg (by omega)]
    exact ih h.2.2.2

theorem Memory.read_writeFrom {cells low : Nat} {m : Memory} (i j : Nat) (v : Byte)
    (h : Memory.wfFrom cells low m = true) :
    (m.write i v).read j = if j = i then v else m.read j := by
  induction m generalizing low with
  | nil =>
    unfold Memory.write
    split <;> simp_all [Memory.read_cons, eq_comm]
  | cons cell m ih =>
    obtain ⟨k, w⟩ := cell
    have hc := Memory.wfFrom_cons.mp h
    have below : ∀ n, n ≤ k → Memory.read m n = fillByte := fun n hn =>
      Memory.read_below hc.2.2.2 (by omega)
    unfold Memory.write
    by_cases h1 : i < k
    · rw [if_pos h1]
      by_cases hv : v = fillByte
      · rw [if_pos hv]
        by_cases hj : j = i
        · subst hj
          rw [if_pos rfl, Memory.read_cons, if_neg (by omega), below _ (by omega), hv]
        · rw [if_neg hj]
      · rw [if_neg hv, Memory.read_cons]
        by_cases hj : j = i
        · rw [if_pos hj, if_pos hj.symm]
        · rw [if_neg hj, if_neg (Ne.symm hj)]
    · rw [if_neg h1]
      by_cases h2 : i = k
      · rw [if_pos h2]
        subst h2
        by_cases hv : v = fillByte
        · rw [if_pos hv]
          by_cases hj : j = i
          · subst hj
            rw [if_pos rfl, below _ (Nat.le_refl _), hv]
          · rw [if_neg hj, Memory.read_cons, if_neg (Ne.symm hj)]
        · rw [if_neg hv, Memory.read_cons, Memory.read_cons]
          by_cases hj : j = i
          · rw [if_pos hj, if_pos hj.symm]
          · rw [if_neg hj, if_neg (Ne.symm hj), if_neg (Ne.symm hj)]
      · rw [if_neg h2, Memory.read_cons, Memory.read_cons, ih hc.2.2.2]
        by_cases hj : j = i
        · subst hj
          rw [if_pos rfl, if_neg (Ne.symm h2)]
          simp
        · rw [if_neg hj, if_neg hj]

theorem Memory.write_wfFrom {cells low : Nat} {m : Memory} {i : Nat} (v : Byte)
    (hlow : low ≤ i) (hi : i < cells) (h : Memory.wfFrom cells low m = true) :
    Memory.wfFrom cells low (m.write i v) = true := by
  induction m generalizing low with
  | nil =>
    unfold Memory.write
    split
    · rfl
    · exact Memory.wfFrom_cons.mpr ⟨hlow, hi, ‹_›, rfl⟩
  | cons cell m ih =>
    obtain ⟨k, w⟩ := cell
    have hc := Memory.wfFrom_cons.mp h
    unfold Memory.write
    by_cases h1 : i < k
    · rw [if_pos h1]
      split
      · exact h
      · exact Memory.wfFrom_cons.mpr ⟨hlow, hi, ‹_›,
          Memory.wfFrom_cons.mpr ⟨by omega, hc.2.1, hc.2.2.1, hc.2.2.2⟩⟩
    · rw [if_neg h1]
      by_cases h2 : i = k
      · rw [if_pos h2]
        subst h2
        split
        · exact Memory.wfFrom_mono (by omega) hc.2.2.2
        · exact Memory.wfFrom_cons.mpr ⟨hlow, hi, ‹_›, hc.2.2.2⟩
      · rw [if_neg h2]
        exact Memory.wfFrom_cons.mpr ⟨hc.1, hc.2.1, hc.2.2.1, ih (by omega) hc.2.2.2⟩

theorem Memory.extFrom {cells low : Nat} {m n : Memory} (hm : Memory.wfFrom cells low m = true)
    (hn : Memory.wfFrom cells low n = true) (h : ∀ i, m.read i = n.read i) : m = n := by
  induction m generalizing low n with
  | nil =>
    cases n with
    | nil => rfl
    | cons cell n =>
      obtain ⟨k, w⟩ := cell
      have hk := h k
      rw [Memory.read_cons, if_pos rfl] at hk
      exact absurd hk.symm (Memory.wfFrom_cons.mp hn).2.2.1
  | cons cell m ih =>
    obtain ⟨k, w⟩ := cell
    have hc := Memory.wfFrom_cons.mp hm
    cases n with
    | nil =>
      have hk := h k
      rw [Memory.read_cons, if_pos rfl] at hk
      exact absurd hk hc.2.2.1
    | cons cell n =>
      obtain ⟨k', w'⟩ := cell
      have hc' := Memory.wfFrom_cons.mp hn
      have hkk : k = k' := by
        rcases Nat.lt_trichotomy k k' with hlt | heq | hgt
        · have hk := h k
          rw [Memory.read_cons, if_pos rfl, Memory.read_cons, if_neg (by omega),
            Memory.read_below hc'.2.2.2 (by omega)] at hk
          exact absurd hk hc.2.2.1
        · exact heq
        · have hk := h k'
          rw [Memory.read_cons, if_neg (by omega), Memory.read_below hc.2.2.2 (by omega),
            Memory.read_cons, if_pos rfl] at hk
          exact absurd hk.symm hc'.2.2.1
      subst hkk
      have hw : w = w' := by
        have hk := h k
        rwa [Memory.read_cons, if_pos rfl, Memory.read_cons, if_pos rfl] at hk
      subst hw
      have htail : m = n := by
        refine ih hc.2.2.2 hc'.2.2.2 (fun i => ?_)
        have hi := h i
        rw [Memory.read_cons, Memory.read_cons] at hi
        by_cases hki : k = i
        · rw [Memory.read_below hc.2.2.2 (by omega), Memory.read_below hc'.2.2.2 (by omega)]
        · rwa [if_neg hki, if_neg hki] at hi
      rw [htail]

/-! ### The laws in terms of `Memory.wf` -/

/-- A read after a write: the written cell holds the byte, every other cell is unchanged. -/
theorem Memory.read_write {cells : Nat} {m : Memory} (h : m.wf cells = true) (i j : Nat) (v : Byte) :
    (m.write i v).read j = if j = i then v else m.read j := Memory.read_writeFrom i j v h

theorem Memory.read_write_same {cells : Nat} {m : Memory} (h : m.wf cells = true) (i : Nat)
    (v : Byte) : (m.write i v).read i = v := by
  rw [Memory.read_write h, if_pos rfl]

theorem Memory.read_write_other {cells : Nat} {m : Memory} (h : m.wf cells = true) {i j : Nat}
    (hne : j ≠ i) (v : Byte) : (m.write i v).read j = m.read j := by
  rw [Memory.read_write h, if_neg hne]

/-- A write to a cell of the array keeps the canonical form. -/
theorem Memory.write_wf {cells : Nat} {m : Memory} (h : m.wf cells = true) {i : Nat} (hi : i < cells)
    (v : Byte) : (m.write i v).wf cells = true := Memory.write_wfFrom v (Nat.zero_le _) hi h

/-- Canonical arrays with equal cells are equal lists. -/
theorem Memory.ext {cells : Nat} {m n : Memory} (hm : m.wf cells = true) (hn : n.wf cells = true)
    (h : ∀ i, m.read i = n.read i) : m = n := Memory.extFrom hm hn h

@[simp] theorem Memory.nil_wf (cells : Nat) : Memory.wf cells [] = true := rfl

/-- Writes to different cells can change places. -/
theorem Memory.write_comm {cells : Nat} {m : Memory} (h : m.wf cells = true) {i j : Nat} (hi : i < cells)
    (hj : j < cells) (hij : i ≠ j) (v w : Byte) : (m.write i v).write j w = (m.write j w).write i v := by
  have hv := Memory.write_wf h hi v
  have hw := Memory.write_wf h hj w
  refine Memory.ext (Memory.write_wf hv hj w) (Memory.write_wf hw hi v) fun k => ?_
  rw [Memory.read_write hv, Memory.read_write h, Memory.read_write hw, Memory.read_write h]
  split <;> split <;> first | rfl | omega

theorem Memory.ofBytes_wfFrom (cells : Nat) (bytes : List Byte) (index low : Nat) (hlow : low ≤ index)
    (h : index + bytes.length ≤ cells) : Memory.wfFrom cells low (Memory.ofBytes index bytes) = true := by
  induction bytes generalizing index low with
  | nil => rfl
  | cons v rest ih =>
    rw [List.length_cons] at h
    unfold Memory.ofBytes
    split
    · exact ih (index + 1) low (by omega) (by omega)
    · exact Memory.wfFrom_cons.mpr ⟨hlow, by omega, ‹_›, ih (index + 1) (index + 1) (Nat.le_refl _) (by omega)⟩

/-- A raw import has the canonical form. -/
theorem Memory.ofBytes_wf {cells : Nat} {bytes : List Byte} (h : bytes.length ≤ cells) :
    (Memory.ofBytes 0 bytes).wf cells = true :=
  Memory.ofBytes_wfFrom cells bytes 0 0 (Nat.le_refl _) (by omega)

/-- Writing a list of cells of the array keeps the canonical form. -/
theorem Memory.writeAll_wf {size : Nat} (cells : List Host.Cell) {m : Memory} (h : m.wf size = true)
    (hc : ∀ cell ∈ cells, cell.1 < size) : (m.writeAll cells).wf size = true := by
  induction cells generalizing m with
  | nil => exact h
  | cons cell rest ih =>
    obtain ⟨k, v⟩ := cell
    exact ih (Memory.write_wf h (hc _ (List.mem_cons_self ..)) v)
      (fun c hcr => hc c (List.mem_cons_of_mem _ hcr))

/-- Every listed cell lies inside the array. -/
theorem Memory.index_lt {cells low : Nat} {m : Memory} (h : Memory.wfFrom cells low m = true)
    {cell : Host.Cell} (hc : cell ∈ m) : cell.1 < cells := by
  induction m generalizing low with
  | nil => cases hc
  | cons head m ih =>
    obtain ⟨k, w⟩ := head
    have h' := Memory.wfFrom_cons.mp h
    rcases List.mem_cons.mp hc with rfl | hm
    · exact h'.2.1
    · exact ih h'.2.2.2 hm

/-- An index that reads as a byte other than the fill byte is listed. -/
theorem Memory.mem_of_read {m : Memory} {i : Nat} (h : m.read i ≠ fillByte) : (i, m.read i) ∈ m := by
  induction m with
  | nil => exact absurd rfl h
  | cons head m ih =>
    obtain ⟨k, w⟩ := head
    rw [Memory.read_cons] at h ⊢
    by_cases hk : k = i
    · rw [if_pos hk, ← hk]
      exact List.mem_cons_self ..
    · rw [if_neg hk] at h ⊢
      exact List.mem_cons_of_mem _ (ih h)

/-- A listed cell of a canonical array reads as listed. -/
theorem Memory.read_of_mem {cells low : Nat} {m : Memory} (h : Memory.wfFrom cells low m = true)
    {cell : Host.Cell} (hc : cell ∈ m) : m.read cell.1 = cell.2 ∧ low ≤ cell.1 := by
  induction m generalizing low with
  | nil => cases hc
  | cons head m ih =>
    obtain ⟨k, w⟩ := head
    have h' := Memory.wfFrom_cons.mp h
    rcases List.mem_cons.mp hc with rfl | hm
    · exact ⟨by rw [Memory.read_cons, if_pos rfl], h'.1⟩
    · obtain ⟨hr, hl⟩ := ih h'.2.2.2 hm
      refine ⟨?_, by omega⟩
      rw [Memory.read_cons, if_neg (by omega), hr]

end Sys2Proof.Machine
end

