-- ==== Sys2Proof/Laws/State.lean ====
section
/-! SUPPORT. One lemma for each field and each setter, so that no proof unfolds a record update. -/

namespace Sys2Proof.Machine

section setA
variable (s : State) (v : Byte)
@[simp] theorem State.setA_a : (s.setA v).a = v := rfl
@[simp] theorem State.setA_b : (s.setA v).b = s.b := rfl
@[simp] theorem State.setA_c : (s.setA v).c = s.c := rfl
@[simp] theorem State.setA_d : (s.setA v).d = s.d := rfl
@[simp] theorem State.setA_e : (s.setA v).e = s.e := rfl
@[simp] theorem State.setA_h : (s.setA v).h = s.h := rfl
@[simp] theorem State.setA_l : (s.setA v).l = s.l := rfl
@[simp] theorem State.setA_sp : (s.setA v).sp = s.sp := rfl
@[simp] theorem State.setA_pc : (s.setA v).pc = s.pc := rfl
@[simp] theorem State.setA_flags : (s.setA v).flags = s.flags := rfl
@[simp] theorem State.setA_mem : (s.setA v).mem = s.mem := rfl
@[simp] theorem State.setA_io : (s.setA v).io = s.io := rfl
@[simp] theorem State.setA_lastResult : (s.setA v).lastResult = s.lastResult := rfl
@[simp] theorem State.setA_setA (w : Byte) : (s.setA w).setA v = s.setA v := rfl
end setA

section setB
variable (s : State) (v : Byte)
@[simp] theorem State.setB_a : (s.setB v).a = s.a := rfl
@[simp] theorem State.setB_b : (s.setB v).b = v := rfl
@[simp] theorem State.setB_c : (s.setB v).c = s.c := rfl
@[simp] theorem State.setB_d : (s.setB v).d = s.d := rfl
@[simp] theorem State.setB_e : (s.setB v).e = s.e := rfl
@[simp] theorem State.setB_h : (s.setB v).h = s.h := rfl
@[simp] theorem State.setB_l : (s.setB v).l = s.l := rfl
@[simp] theorem State.setB_sp : (s.setB v).sp = s.sp := rfl
@[simp] theorem State.setB_pc : (s.setB v).pc = s.pc := rfl
@[simp] theorem State.setB_flags : (s.setB v).flags = s.flags := rfl
@[simp] theorem State.setB_mem : (s.setB v).mem = s.mem := rfl
@[simp] theorem State.setB_io : (s.setB v).io = s.io := rfl
@[simp] theorem State.setB_lastResult : (s.setB v).lastResult = s.lastResult := rfl
@[simp] theorem State.setB_setB (w : Byte) : (s.setB w).setB v = s.setB v := rfl
end setB

section setC
variable (s : State) (v : Byte)
@[simp] theorem State.setC_a : (s.setC v).a = s.a := rfl
@[simp] theorem State.setC_b : (s.setC v).b = s.b := rfl
@[simp] theorem State.setC_c : (s.setC v).c = v := rfl
@[simp] theorem State.setC_d : (s.setC v).d = s.d := rfl
@[simp] theorem State.setC_e : (s.setC v).e = s.e := rfl
@[simp] theorem State.setC_h : (s.setC v).h = s.h := rfl
@[simp] theorem State.setC_l : (s.setC v).l = s.l := rfl
@[simp] theorem State.setC_sp : (s.setC v).sp = s.sp := rfl
@[simp] theorem State.setC_pc : (s.setC v).pc = s.pc := rfl
@[simp] theorem State.setC_flags : (s.setC v).flags = s.flags := rfl
@[simp] theorem State.setC_mem : (s.setC v).mem = s.mem := rfl
@[simp] theorem State.setC_io : (s.setC v).io = s.io := rfl
@[simp] theorem State.setC_lastResult : (s.setC v).lastResult = s.lastResult := rfl
@[simp] theorem State.setC_setC (w : Byte) : (s.setC w).setC v = s.setC v := rfl
end setC

section setD
variable (s : State) (v : Byte)
@[simp] theorem State.setD_a : (s.setD v).a = s.a := rfl
@[simp] theorem State.setD_b : (s.setD v).b = s.b := rfl
@[simp] theorem State.setD_c : (s.setD v).c = s.c := rfl
@[simp] theorem State.setD_d : (s.setD v).d = v := rfl
@[simp] theorem State.setD_e : (s.setD v).e = s.e := rfl
@[simp] theorem State.setD_h : (s.setD v).h = s.h := rfl
@[simp] theorem State.setD_l : (s.setD v).l = s.l := rfl
@[simp] theorem State.setD_sp : (s.setD v).sp = s.sp := rfl
@[simp] theorem State.setD_pc : (s.setD v).pc = s.pc := rfl
@[simp] theorem State.setD_flags : (s.setD v).flags = s.flags := rfl
@[simp] theorem State.setD_mem : (s.setD v).mem = s.mem := rfl
@[simp] theorem State.setD_io : (s.setD v).io = s.io := rfl
@[simp] theorem State.setD_lastResult : (s.setD v).lastResult = s.lastResult := rfl
@[simp] theorem State.setD_setD (w : Byte) : (s.setD w).setD v = s.setD v := rfl
end setD

section setE
variable (s : State) (v : Byte)
@[simp] theorem State.setE_a : (s.setE v).a = s.a := rfl
@[simp] theorem State.setE_b : (s.setE v).b = s.b := rfl
@[simp] theorem State.setE_c : (s.setE v).c = s.c := rfl
@[simp] theorem State.setE_d : (s.setE v).d = s.d := rfl
@[simp] theorem State.setE_e : (s.setE v).e = v := rfl
@[simp] theorem State.setE_h : (s.setE v).h = s.h := rfl
@[simp] theorem State.setE_l : (s.setE v).l = s.l := rfl
@[simp] theorem State.setE_sp : (s.setE v).sp = s.sp := rfl
@[simp] theorem State.setE_pc : (s.setE v).pc = s.pc := rfl
@[simp] theorem State.setE_flags : (s.setE v).flags = s.flags := rfl
@[simp] theorem State.setE_mem : (s.setE v).mem = s.mem := rfl
@[simp] theorem State.setE_io : (s.setE v).io = s.io := rfl
@[simp] theorem State.setE_lastResult : (s.setE v).lastResult = s.lastResult := rfl
@[simp] theorem State.setE_setE (w : Byte) : (s.setE w).setE v = s.setE v := rfl
end setE

section setH
variable (s : State) (v : Byte)
@[simp] theorem State.setH_a : (s.setH v).a = s.a := rfl
@[simp] theorem State.setH_b : (s.setH v).b = s.b := rfl
@[simp] theorem State.setH_c : (s.setH v).c = s.c := rfl
@[simp] theorem State.setH_d : (s.setH v).d = s.d := rfl
@[simp] theorem State.setH_e : (s.setH v).e = s.e := rfl
@[simp] theorem State.setH_h : (s.setH v).h = v := rfl
@[simp] theorem State.setH_l : (s.setH v).l = s.l := rfl
@[simp] theorem State.setH_sp : (s.setH v).sp = s.sp := rfl
@[simp] theorem State.setH_pc : (s.setH v).pc = s.pc := rfl
@[simp] theorem State.setH_flags : (s.setH v).flags = s.flags := rfl
@[simp] theorem State.setH_mem : (s.setH v).mem = s.mem := rfl
@[simp] theorem State.setH_io : (s.setH v).io = s.io := rfl
@[simp] theorem State.setH_lastResult : (s.setH v).lastResult = s.lastResult := rfl
@[simp] theorem State.setH_setH (w : Byte) : (s.setH w).setH v = s.setH v := rfl
end setH

section setL
variable (s : State) (v : Byte)
@[simp] theorem State.setL_a : (s.setL v).a = s.a := rfl
@[simp] theorem State.setL_b : (s.setL v).b = s.b := rfl
@[simp] theorem State.setL_c : (s.setL v).c = s.c := rfl
@[simp] theorem State.setL_d : (s.setL v).d = s.d := rfl
@[simp] theorem State.setL_e : (s.setL v).e = s.e := rfl
@[simp] theorem State.setL_h : (s.setL v).h = s.h := rfl
@[simp] theorem State.setL_l : (s.setL v).l = v := rfl
@[simp] theorem State.setL_sp : (s.setL v).sp = s.sp := rfl
@[simp] theorem State.setL_pc : (s.setL v).pc = s.pc := rfl
@[simp] theorem State.setL_flags : (s.setL v).flags = s.flags := rfl
@[simp] theorem State.setL_mem : (s.setL v).mem = s.mem := rfl
@[simp] theorem State.setL_io : (s.setL v).io = s.io := rfl
@[simp] theorem State.setL_lastResult : (s.setL v).lastResult = s.lastResult := rfl
@[simp] theorem State.setL_setL (w : Byte) : (s.setL w).setL v = s.setL v := rfl
end setL

section setSp
variable (s : State) (v : Word)
@[simp] theorem State.setSp_a : (s.setSp v).a = s.a := rfl
@[simp] theorem State.setSp_b : (s.setSp v).b = s.b := rfl
@[simp] theorem State.setSp_c : (s.setSp v).c = s.c := rfl
@[simp] theorem State.setSp_d : (s.setSp v).d = s.d := rfl
@[simp] theorem State.setSp_e : (s.setSp v).e = s.e := rfl
@[simp] theorem State.setSp_h : (s.setSp v).h = s.h := rfl
@[simp] theorem State.setSp_l : (s.setSp v).l = s.l := rfl
@[simp] theorem State.setSp_sp : (s.setSp v).sp = v := rfl
@[simp] theorem State.setSp_pc : (s.setSp v).pc = s.pc := rfl
@[simp] theorem State.setSp_flags : (s.setSp v).flags = s.flags := rfl
@[simp] theorem State.setSp_mem : (s.setSp v).mem = s.mem := rfl
@[simp] theorem State.setSp_io : (s.setSp v).io = s.io := rfl
@[simp] theorem State.setSp_lastResult : (s.setSp v).lastResult = s.lastResult := rfl
@[simp] theorem State.setSp_setSp (w : Word) : (s.setSp w).setSp v = s.setSp v := rfl
end setSp

section setPc
variable (s : State) (v : Word)
@[simp] theorem State.setPc_a : (s.setPc v).a = s.a := rfl
@[simp] theorem State.setPc_b : (s.setPc v).b = s.b := rfl
@[simp] theorem State.setPc_c : (s.setPc v).c = s.c := rfl
@[simp] theorem State.setPc_d : (s.setPc v).d = s.d := rfl
@[simp] theorem State.setPc_e : (s.setPc v).e = s.e := rfl
@[simp] theorem State.setPc_h : (s.setPc v).h = s.h := rfl
@[simp] theorem State.setPc_l : (s.setPc v).l = s.l := rfl
@[simp] theorem State.setPc_sp : (s.setPc v).sp = s.sp := rfl
@[simp] theorem State.setPc_pc : (s.setPc v).pc = v := rfl
@[simp] theorem State.setPc_flags : (s.setPc v).flags = s.flags := rfl
@[simp] theorem State.setPc_mem : (s.setPc v).mem = s.mem := rfl
@[simp] theorem State.setPc_io : (s.setPc v).io = s.io := rfl
@[simp] theorem State.setPc_lastResult : (s.setPc v).lastResult = s.lastResult := rfl
@[simp] theorem State.setPc_setPc (w : Word) : (s.setPc w).setPc v = s.setPc v := rfl
end setPc

section setFlags
variable (s : State) (v : Flags)
@[simp] theorem State.setFlags_a : (s.setFlags v).a = s.a := rfl
@[simp] theorem State.setFlags_b : (s.setFlags v).b = s.b := rfl
@[simp] theorem State.setFlags_c : (s.setFlags v).c = s.c := rfl
@[simp] theorem State.setFlags_d : (s.setFlags v).d = s.d := rfl
@[simp] theorem State.setFlags_e : (s.setFlags v).e = s.e := rfl
@[simp] theorem State.setFlags_h : (s.setFlags v).h = s.h := rfl
@[simp] theorem State.setFlags_l : (s.setFlags v).l = s.l := rfl
@[simp] theorem State.setFlags_sp : (s.setFlags v).sp = s.sp := rfl
@[simp] theorem State.setFlags_pc : (s.setFlags v).pc = s.pc := rfl
@[simp] theorem State.setFlags_flags : (s.setFlags v).flags = v := rfl
@[simp] theorem State.setFlags_mem : (s.setFlags v).mem = s.mem := rfl
@[simp] theorem State.setFlags_io : (s.setFlags v).io = s.io := rfl
@[simp] theorem State.setFlags_lastResult : (s.setFlags v).lastResult = s.lastResult := rfl
@[simp] theorem State.setFlags_setFlags (w : Flags) : (s.setFlags w).setFlags v = s.setFlags v := rfl
end setFlags

section setMem
variable (s : State) (v : Memory)
@[simp] theorem State.setMem_a : (s.setMem v).a = s.a := rfl
@[simp] theorem State.setMem_b : (s.setMem v).b = s.b := rfl
@[simp] theorem State.setMem_c : (s.setMem v).c = s.c := rfl
@[simp] theorem State.setMem_d : (s.setMem v).d = s.d := rfl
@[simp] theorem State.setMem_e : (s.setMem v).e = s.e := rfl
@[simp] theorem State.setMem_h : (s.setMem v).h = s.h := rfl
@[simp] theorem State.setMem_l : (s.setMem v).l = s.l := rfl
@[simp] theorem State.setMem_sp : (s.setMem v).sp = s.sp := rfl
@[simp] theorem State.setMem_pc : (s.setMem v).pc = s.pc := rfl
@[simp] theorem State.setMem_flags : (s.setMem v).flags = s.flags := rfl
@[simp] theorem State.setMem_mem : (s.setMem v).mem = v := rfl
@[simp] theorem State.setMem_io : (s.setMem v).io = s.io := rfl
@[simp] theorem State.setMem_lastResult : (s.setMem v).lastResult = s.lastResult := rfl
@[simp] theorem State.setMem_setMem (w : Memory) : (s.setMem w).setMem v = s.setMem v := rfl
end setMem

section setIo
variable (s : State) (v : Memory)
@[simp] theorem State.setIo_a : (s.setIo v).a = s.a := rfl
@[simp] theorem State.setIo_b : (s.setIo v).b = s.b := rfl
@[simp] theorem State.setIo_c : (s.setIo v).c = s.c := rfl
@[simp] theorem State.setIo_d : (s.setIo v).d = s.d := rfl
@[simp] theorem State.setIo_e : (s.setIo v).e = s.e := rfl
@[simp] theorem State.setIo_h : (s.setIo v).h = s.h := rfl
@[simp] theorem State.setIo_l : (s.setIo v).l = s.l := rfl
@[simp] theorem State.setIo_sp : (s.setIo v).sp = s.sp := rfl
@[simp] theorem State.setIo_pc : (s.setIo v).pc = s.pc := rfl
@[simp] theorem State.setIo_flags : (s.setIo v).flags = s.flags := rfl
@[simp] theorem State.setIo_mem : (s.setIo v).mem = s.mem := rfl
@[simp] theorem State.setIo_io : (s.setIo v).io = v := rfl
@[simp] theorem State.setIo_lastResult : (s.setIo v).lastResult = s.lastResult := rfl
@[simp] theorem State.setIo_setIo (w : Memory) : (s.setIo w).setIo v = s.setIo v := rfl
end setIo

section setLastResult
variable (s : State) (v : StepResult)
@[simp] theorem State.setLastResult_a : (s.setLastResult v).a = s.a := rfl
@[simp] theorem State.setLastResult_b : (s.setLastResult v).b = s.b := rfl
@[simp] theorem State.setLastResult_c : (s.setLastResult v).c = s.c := rfl
@[simp] theorem State.setLastResult_d : (s.setLastResult v).d = s.d := rfl
@[simp] theorem State.setLastResult_e : (s.setLastResult v).e = s.e := rfl
@[simp] theorem State.setLastResult_h : (s.setLastResult v).h = s.h := rfl
@[simp] theorem State.setLastResult_l : (s.setLastResult v).l = s.l := rfl
@[simp] theorem State.setLastResult_sp : (s.setLastResult v).sp = s.sp := rfl
@[simp] theorem State.setLastResult_pc : (s.setLastResult v).pc = s.pc := rfl
@[simp] theorem State.setLastResult_flags : (s.setLastResult v).flags = s.flags := rfl
@[simp] theorem State.setLastResult_mem : (s.setLastResult v).mem = s.mem := rfl
@[simp] theorem State.setLastResult_io : (s.setLastResult v).io = s.io := rfl
@[simp] theorem State.setLastResult_lastResult : (s.setLastResult v).lastResult = v := rfl
@[simp] theorem State.setLastResult_setLastResult (w : StepResult) : (s.setLastResult w).setLastResult v = s.setLastResult v := rfl
end setLastResult

end Sys2Proof.Machine
end

