-- ==== Sys2Proof/Laws/Ops.lean ====
section
/-! SUPPORT. What each bus and stack primitive does, once: the fields it leaves, the cells it writes, and that the
arrays keep their canonical form. -/

namespace Sys2Proof.Machine

/-! ### The fields an operation leaves -/

section memWrite8
variable (s : State) (addr : Word) (v : Byte)
@[simp] theorem State.memWrite8_a : (s.memWrite8 addr v).a = s.a := rfl
@[simp] theorem State.memWrite8_b : (s.memWrite8 addr v).b = s.b := rfl
@[simp] theorem State.memWrite8_c : (s.memWrite8 addr v).c = s.c := rfl
@[simp] theorem State.memWrite8_d : (s.memWrite8 addr v).d = s.d := rfl
@[simp] theorem State.memWrite8_e : (s.memWrite8 addr v).e = s.e := rfl
@[simp] theorem State.memWrite8_h : (s.memWrite8 addr v).h = s.h := rfl
@[simp] theorem State.memWrite8_l : (s.memWrite8 addr v).l = s.l := rfl
@[simp] theorem State.memWrite8_sp : (s.memWrite8 addr v).sp = s.sp := rfl
@[simp] theorem State.memWrite8_pc : (s.memWrite8 addr v).pc = s.pc := rfl
@[simp] theorem State.memWrite8_flags : (s.memWrite8 addr v).flags = s.flags := rfl
@[simp] theorem State.memWrite8_io : (s.memWrite8 addr v).io = s.io := rfl
@[simp] theorem State.memWrite8_lastResult : (s.memWrite8 addr v).lastResult = s.lastResult := rfl
end memWrite8

section memWrite16
variable (s : State) (addr v : Word)
@[simp] theorem State.memWrite16_a : (s.memWrite16 addr v).a = s.a := rfl
@[simp] theorem State.memWrite16_b : (s.memWrite16 addr v).b = s.b := rfl
@[simp] theorem State.memWrite16_c : (s.memWrite16 addr v).c = s.c := rfl
@[simp] theorem State.memWrite16_d : (s.memWrite16 addr v).d = s.d := rfl
@[simp] theorem State.memWrite16_e : (s.memWrite16 addr v).e = s.e := rfl
@[simp] theorem State.memWrite16_h : (s.memWrite16 addr v).h = s.h := rfl
@[simp] theorem State.memWrite16_l : (s.memWrite16 addr v).l = s.l := rfl
@[simp] theorem State.memWrite16_sp : (s.memWrite16 addr v).sp = s.sp := rfl
@[simp] theorem State.memWrite16_pc : (s.memWrite16 addr v).pc = s.pc := rfl
@[simp] theorem State.memWrite16_flags : (s.memWrite16 addr v).flags = s.flags := rfl
@[simp] theorem State.memWrite16_io : (s.memWrite16 addr v).io = s.io := rfl
@[simp] theorem State.memWrite16_lastResult : (s.memWrite16 addr v).lastResult = s.lastResult := rfl
end memWrite16

section ioWrite
variable (s : State) (port v : Byte)
@[simp] theorem State.ioWrite_a : (s.ioWrite port v).a = s.a := rfl
@[simp] theorem State.ioWrite_b : (s.ioWrite port v).b = s.b := rfl
@[simp] theorem State.ioWrite_c : (s.ioWrite port v).c = s.c := rfl
@[simp] theorem State.ioWrite_d : (s.ioWrite port v).d = s.d := rfl
@[simp] theorem State.ioWrite_e : (s.ioWrite port v).e = s.e := rfl
@[simp] theorem State.ioWrite_h : (s.ioWrite port v).h = s.h := rfl
@[simp] theorem State.ioWrite_l : (s.ioWrite port v).l = s.l := rfl
@[simp] theorem State.ioWrite_sp : (s.ioWrite port v).sp = s.sp := rfl
@[simp] theorem State.ioWrite_pc : (s.ioWrite port v).pc = s.pc := rfl
@[simp] theorem State.ioWrite_flags : (s.ioWrite port v).flags = s.flags := rfl
@[simp] theorem State.ioWrite_mem : (s.ioWrite port v).mem = s.mem := rfl
@[simp] theorem State.ioWrite_lastResult : (s.ioWrite port v).lastResult = s.lastResult := rfl
end ioWrite

section push16
variable (s : State) (v : Word)
@[simp] theorem State.push16_a : (s.push16 v).a = s.a := rfl
@[simp] theorem State.push16_b : (s.push16 v).b = s.b := rfl
@[simp] theorem State.push16_c : (s.push16 v).c = s.c := rfl
@[simp] theorem State.push16_d : (s.push16 v).d = s.d := rfl
@[simp] theorem State.push16_e : (s.push16 v).e = s.e := rfl
@[simp] theorem State.push16_h : (s.push16 v).h = s.h := rfl
@[simp] theorem State.push16_l : (s.push16 v).l = s.l := rfl
@[simp] theorem State.push16_pc : (s.push16 v).pc = s.pc := rfl
@[simp] theorem State.push16_flags : (s.push16 v).flags = s.flags := rfl
@[simp] theorem State.push16_io : (s.push16 v).io = s.io := rfl
@[simp] theorem State.push16_lastResult : (s.push16 v).lastResult = s.lastResult := rfl
end push16

section setBc
variable (s : State) (v : Word)
@[simp] theorem State.setBc_a : (s.setBc v).a = s.a := rfl
@[simp] theorem State.setBc_d : (s.setBc v).d = s.d := rfl
@[simp] theorem State.setBc_e : (s.setBc v).e = s.e := rfl
@[simp] theorem State.setBc_h : (s.setBc v).h = s.h := rfl
@[simp] theorem State.setBc_l : (s.setBc v).l = s.l := rfl
@[simp] theorem State.setBc_sp : (s.setBc v).sp = s.sp := rfl
@[simp] theorem State.setBc_pc : (s.setBc v).pc = s.pc := rfl
@[simp] theorem State.setBc_flags : (s.setBc v).flags = s.flags := rfl
@[simp] theorem State.setBc_mem : (s.setBc v).mem = s.mem := rfl
@[simp] theorem State.setBc_io : (s.setBc v).io = s.io := rfl
@[simp] theorem State.setBc_lastResult : (s.setBc v).lastResult = s.lastResult := rfl
end setBc

section setDe
variable (s : State) (v : Word)
@[simp] theorem State.setDe_a : (s.setDe v).a = s.a := rfl
@[simp] theorem State.setDe_b : (s.setDe v).b = s.b := rfl
@[simp] theorem State.setDe_c : (s.setDe v).c = s.c := rfl
@[simp] theorem State.setDe_h : (s.setDe v).h = s.h := rfl
@[simp] theorem State.setDe_l : (s.setDe v).l = s.l := rfl
@[simp] theorem State.setDe_sp : (s.setDe v).sp = s.sp := rfl
@[simp] theorem State.setDe_pc : (s.setDe v).pc = s.pc := rfl
@[simp] theorem State.setDe_flags : (s.setDe v).flags = s.flags := rfl
@[simp] theorem State.setDe_mem : (s.setDe v).mem = s.mem := rfl
@[simp] theorem State.setDe_io : (s.setDe v).io = s.io := rfl
@[simp] theorem State.setDe_lastResult : (s.setDe v).lastResult = s.lastResult := rfl
end setDe

section setHl
variable (s : State) (v : Word)
@[simp] theorem State.setHl_a : (s.setHl v).a = s.a := rfl
@[simp] theorem State.setHl_b : (s.setHl v).b = s.b := rfl
@[simp] theorem State.setHl_c : (s.setHl v).c = s.c := rfl
@[simp] theorem State.setHl_d : (s.setHl v).d = s.d := rfl
@[simp] theorem State.setHl_e : (s.setHl v).e = s.e := rfl
@[simp] theorem State.setHl_sp : (s.setHl v).sp = s.sp := rfl
@[simp] theorem State.setHl_pc : (s.setHl v).pc = s.pc := rfl
@[simp] theorem State.setHl_flags : (s.setHl v).flags = s.flags := rfl
@[simp] theorem State.setHl_mem : (s.setHl v).mem = s.mem := rfl
@[simp] theorem State.setHl_io : (s.setHl v).io = s.io := rfl
@[simp] theorem State.setHl_lastResult : (s.setHl v).lastResult = s.lastResult := rfl
end setHl

@[simp] theorem State.push16_sp (s : State) (v : Word) : (s.push16 v).sp = s.sp - 2 := rfl
@[simp] theorem State.setBc_bc (s : State) (v : Word) : (s.setBc v).bc = v := joinBytes_hiByte_loByte v
@[simp] theorem State.setDe_de (s : State) (v : Word) : (s.setDe v).de = v := joinBytes_hiByte_loByte v
@[simp] theorem State.setHl_hl (s : State) (v : Word) : (s.setHl v).hl = v := joinBytes_hiByte_loByte v

/-! ### The canonical form -/

theorem State.wf_iff {s : State} : s.wf = true ↔ s.mem.wf memCells = true ∧ s.io.wf ioCells = true := by
  rw [State.wf, Bool.and_eq_true]

/-- The canonical form speaks of the two arrays alone. -/
theorem State.wf_congr {s t : State} (hm : t.mem = s.mem) (hi : t.io = s.io) : t.wf = s.wf := by
  rw [State.wf, State.wf, hm, hi]

theorem State.memWrite8_wf {s : State} (h : s.wf = true) (addr : Word) (v : Byte) :
    (s.memWrite8 addr v).wf = true :=
  State.wf_iff.mpr ⟨Memory.write_wf (State.wf_iff.mp h).1 (by have := addr.isLt; unfold memCells; omega) v,
    (State.wf_iff.mp h).2⟩

theorem State.memWrite16_wf {s : State} (h : s.wf = true) (addr v : Word) :
    (s.memWrite16 addr v).wf = true := by
  have ha := addr.isLt
  have hm := Memory.write_wf (State.wf_iff.mp h).1 (i := addr.toNat) (by unfold memCells; omega) (loByte v)
  exact State.wf_iff.mpr ⟨Memory.write_wf hm (by unfold memCells; omega) _, (State.wf_iff.mp h).2⟩

theorem State.push16_wf {s : State} (h : s.wf = true) (v : Word) : (s.push16 v).wf = true :=
  State.memWrite16_wf (s := s.setSp (s.sp - 2)) h _ _

theorem State.ioWrite_wf {s : State} (h : s.wf = true) (port v : Byte) : (s.ioWrite port v).wf = true :=
  State.wf_iff.mpr ⟨(State.wf_iff.mp h).1,
    Memory.write_wf (State.wf_iff.mp h).2 (by have := port.isLt; unfold ioCells; omega) v⟩

/-! ### The cells an operation writes -/

theorem State.memWrite8_read {s : State} (h : s.wf = true) (addr : Word) (v : Byte) (i : Nat) :
    (s.memWrite8 addr v).mem.read i = if i = addr.toNat then v else s.mem.read i :=
  Memory.read_write (State.wf_iff.mp h).1 _ _ _

theorem State.memWrite16_read {s : State} (h : s.wf = true) (addr v : Word) (i : Nat) :
    (s.memWrite16 addr v).mem.read i =
      if i = addr.toNat + 1 then hiByte v else if i = addr.toNat then loByte v else s.mem.read i := by
  have ha := addr.isLt
  have hm := Memory.write_wf (State.wf_iff.mp h).1 (i := addr.toNat) (by unfold memCells; omega) (loByte v)
  show Memory.read (Memory.write (Memory.write _ _ _) _ _) i = _
  rw [Memory.read_write hm, Memory.read_write (State.wf_iff.mp h).1]

theorem State.push16_read {s : State} (h : s.wf = true) (v : Word) (i : Nat) :
    (s.push16 v).mem.read i =
      if i = (s.sp - 2).toNat + 1 then hiByte v
      else if i = (s.sp - 2).toNat then loByte v else s.mem.read i :=
  State.memWrite16_read (s := s.setSp (s.sp - 2)) h _ _ _

/-- A push leaves every cell but its two. -/
theorem State.push16_read_other {s : State} (h : s.wf = true) (v : Word) {k : Nat} (hk : k ∉ pushCells s) :
    (s.push16 v).mem.read k = s.mem.read k := by
  simp only [pushCells, wordCells, List.mem_cons, List.not_mem_nil, or_false, not_or] at hk
  rw [State.push16_read h, if_neg hk.2, if_neg hk.1]

theorem State.ioWrite_read {s : State} (h : s.wf = true) (port v : Byte) (i : Nat) :
    (s.ioWrite port v).io.read i = if i = port.toNat then v else s.io.read i :=
  Memory.read_write (State.wf_iff.mp h).2 _ _ _

/-- A 16-bit read gives back the word that the same two cells were written with, also at 0xFFFF. -/
theorem State.memRead16_memWrite16 {s : State} (h : s.wf = true) (addr v : Word) :
    (s.memWrite16 addr v).memRead16 addr = v := by
  rw [State.memRead16, State.memWrite16_read h, State.memWrite16_read h, if_pos rfl,
    if_neg (Nat.ne_of_lt (Nat.lt_succ_self _)), if_pos rfl, joinBytes_hiByte_loByte]

end Sys2Proof.Machine
end

