-- ==== Sys2Proof/Laws/Operands.lean ====
section
/-! SUPPORT. What a read and a write of an operand do, once, for every operand form. -/

namespace Sys2Proof.Machine

/-- Writing a register operand other than M and reading any register other than M. -/
theorem State.readReg8_writeReg8 (s : State) (dst r : Reg8) (v : Byte) (hr : r ≠ .m) :
    (s.writeReg8 dst v).readReg8 r = if r = dst then v else s.readReg8 r := by
  cases dst <;> cases r <;> first | rfl | exact absurd rfl hr

/-- The arrays after writing a register operand: only M writes a cell. -/
theorem State.writeReg8_read {s : State} (h : s.wf = true) (dst : Reg8) (v : Byte) (i : Nat) :
    (s.writeReg8 dst v).mem.read i = if dst = .m ∧ i = s.hl.toNat then v else s.mem.read i := by
  cases dst <;> simp [State.writeReg8, State.memWrite8_read h]

section writeReg8
variable (s : State) (dst : Reg8) (v : Byte)
@[simp] theorem State.writeReg8_sp : (s.writeReg8 dst v).sp = s.sp := by cases dst <;> rfl
@[simp] theorem State.writeReg8_pc : (s.writeReg8 dst v).pc = s.pc := by cases dst <;> rfl
@[simp] theorem State.writeReg8_flags : (s.writeReg8 dst v).flags = s.flags := by cases dst <;> rfl
@[simp] theorem State.writeReg8_io : (s.writeReg8 dst v).io = s.io := by cases dst <;> rfl
@[simp] theorem State.writeReg8_lastResult : (s.writeReg8 dst v).lastResult = s.lastResult := by
  cases dst <;> rfl
end writeReg8

theorem State.writeReg8_wf {s : State} (h : s.wf = true) (dst : Reg8) (v : Byte) :
    (s.writeReg8 dst v).wf = true := by
  cases dst <;> first | exact h | exact State.memWrite8_wf h _ _

/-- A write of a pair is read back, and a pair is read as its two halves. -/
@[simp] theorem State.readPair_writePair (s : State) (p : Pair) (v : Word) :
    (s.writePair p v).readPair p = v := by
  cases p <;> simp [State.writePair, State.readPair]

theorem State.writePair_wf {s : State} (h : s.wf = true) (p : Pair) (v : Word) :
    (s.writePair p v).wf = true := by
  cases p <;> exact h

theorem State.writeStackPair_wf {s : State} (h : s.wf = true) (p : StackPair) (v : Word) :
    (s.writeStackPair p v).wf = true := by
  cases p <;> exact h

/-- What PUSH stores POP loads, for every operand: the PSW's free bits are not stored (rule R33). -/
@[simp] theorem State.writeStackPair_readStackPair (s : State) (p : StackPair) :
    s.writeStackPair p (s.readStackPair p) = s := by
  cases p <;>
    simp [State.writeStackPair, State.readStackPair, State.bc, State.de, State.hl, State.psw, State.setBc,
      State.setDe, State.setHl, State.setPsw] <;> rfl

/-! ### Control transfer -/

theorem State.callTo_wf {s : State} (h : s.wf = true) (target : Word) : (s.callTo target).wf = true :=
  State.push16_wf h _

theorem State.callIf_wf {s : State} (h : s.wf = true) (taken : Bool) (target : Word) :
    (s.callIf taken target).wf = true := by
  cases taken
  · exact h
  · exact State.callTo_wf h _

theorem State.jumpIf_wf {s : State} (h : s.wf = true) (taken : Bool) (target : Word) :
    (s.jumpIf taken target).wf = true := by
  cases taken <;> exact h

theorem State.returnIf_wf {s : State} (h : s.wf = true) (taken : Bool) : (s.returnIf taken).wf = true := by
  cases taken <;> exact h

end Sys2Proof.Machine
end

