-- ==== Sys2Proof/Laws/Execute.lean ====
section
/-! SUPPORT. What decoding an opcode byte and one step can do, once: the later proofs cite these and do not unfold
the step. -/

namespace Sys2Proof.Machine

/-! ### Opcode bytes -/

theorem findRow_none_iff (op : Byte) : findRow op = none ↔ op ∈ undefinedOpcodes := by
  have h : ∀ op : Byte, (findRow op).isNone = decide (op ∈ undefinedOpcodes) := by decide +kernel
  rw [← decide_eq_true_iff (p := op ∈ undefinedOpcodes), ← h op, Option.isNone_iff_eq_none]

/-! ### The meanings -/

/-- No meaning faults, and none refuses. -/
theorem exec_next (i : Instr) (s : State) : ∃ t, exec i s = .next t := by
  cases i <;> exact ⟨_, rfl⟩

theorem exec_wf {i : Instr} {s t : State} (h : s.wf = true) (he : exec i s = .next t) : t.wf = true := by
  cases i <;> cases he
  case mov => exact State.writeReg8_wf h _ _
  case mvi => exact State.writeReg8_wf h _ _
  case inr => exact State.writeReg8_wf h _ _
  case dcr => exact State.writeReg8_wf h _ _
  case lxi => exact State.writePair_wf h _ _
  case inx => exact State.writePair_wf h _ _
  case dcx => exact State.writePair_wf h _ _
  case stax => exact State.memWrite8_wf h _ _
  case sta => exact State.memWrite8_wf h _ _
  case shld => exact State.memWrite16_wf h _ _
  case xthl => exact State.memWrite16_wf h _ _
  case push => exact State.push16_wf h _
  case pop => exact State.writeStackPair_wf (s := s.setSp (s.sp + 2)) h _ _
  case out => exact State.ioWrite_wf h _ _
  case call => exact State.callTo_wf h _
  case rst => exact State.callTo_wf h _
  case cnz => exact State.callIf_wf h _ _
  case cz => exact State.callIf_wf h _ _
  case cnc => exact State.callIf_wf h _ _
  case cc => exact State.callIf_wf h _ _
  case cpo => exact State.callIf_wf h _ _
  case cpe => exact State.callIf_wf h _ _
  case cp => exact State.callIf_wf h _ _
  case cm => exact State.callIf_wf h _ _
  case jnz => exact State.jumpIf_wf h _ _
  case jz => exact State.jumpIf_wf h _ _
  case jnc => exact State.jumpIf_wf h _ _
  case jc => exact State.jumpIf_wf h _ _
  case jpo => exact State.jumpIf_wf h _ _
  case jpe => exact State.jumpIf_wf h _ _
  case jp => exact State.jumpIf_wf h _ _
  case jm => exact State.jumpIf_wf h _ _
  case rnz => exact State.returnIf_wf h _
  case rz => exact State.returnIf_wf h _
  case rnc => exact State.returnIf_wf h _
  case rc => exact State.returnIf_wf h _
  case rpo => exact State.returnIf_wf h _
  case rpe => exact State.returnIf_wf h _
  case rp => exact State.returnIf_wf h _
  case rm => exact State.returnIf_wf h _
  case ldax => exact h
  case lda => exact h
  case lhld => exact h
  case xchg => exact h
  case sphl => exact h
  case add => exact h
  case adc => exact h
  case sub => exact h
  case sbb => exact h
  case adi => exact h
  case aci => exact h
  case sui => exact h
  case sbi => exact h
  case dad => exact h
  case daa => exact h
  case ana => exact h
  case xra => exact h
  case ora => exact h
  case cmp => exact h
  case ani => exact h
  case xri => exact h
  case ori => exact h
  case cpi => exact h
  case rlc => exact h
  case rrc => exact h
  case ral => exact h
  case rar => exact h
  case cma => exact h
  case stc => exact h
  case cmc => exact h
  case jmp => exact h
  case ret => exact h
  case pchl => exact h
  case in_ => exact h
  case nop => exact h
  case hlt => exact h
  case ei => exact h
  case di => exact h
  case rim => exact h
  case sim => exact h

/-! ### The step -/

theorem execute_boundary {s : State} (h : config.haltBoundary ≤ s.pc.toNat) :
    execute s = { outcome := .next (s.halt .boundary), left := s.halt .boundary } := by
  rw [execute, executeWith, if_pos h]

theorem execute_undefined {s : State} (h : s.pc.toNat < config.haltBoundary)
    (hop : s.memRead8 s.pc ∈ undefinedOpcodes) :
    execute s =
      ((s.setLastResult .cont).setPc (s.pc + 1)).raiseIllegalOpcode s.pc (s.memRead8 s.pc) := by
  have hrow := (findRow_none_iff _).mpr hop
  rw [execute, executeWith, if_neg (by omega)]
  show (match findRow (s.memRead8 s.pc) with | none => _ | some row => _) = _
  rw [hrow]
  rfl

/-- Fetching the operands reads the bytes at PC and moves PC past them; nothing else changes. -/
theorem State.fetchOperands_eq (s : State) (row : OpcodeRow) (op : Byte) :
    s.fetchOperands row op =
      match row.format with
      | .f1 => (row.build op 0 0, s)
      | .f2 => (row.build op (s.memRead8 s.pc) 0, s.setPc (s.pc + 1))
      | .f3 => (row.build op 0 (s.memRead16 s.pc), s.setPc (s.pc + 2)) := by
  rw [State.fetchOperands]
  cases row.format <;> rfl

theorem State.fetchOperands_state (s : State) (row : OpcodeRow) (op : Byte) :
    ∃ pc, (s.fetchOperands row op).2 = s.setPc pc := by
  rw [State.fetchOperands_eq]
  cases row.format
  · exact ⟨s.pc, rfl⟩
  · exact ⟨_, rfl⟩
  · exact ⟨_, rfl⟩

/-- A step that finds an instruction runs its meaning after the operand fetch. -/
theorem execute_row {s : State} (h : s.pc.toNat < config.haltBoundary) {row : OpcodeRow}
    (hrow : findRow (s.memRead8 s.pc) = some row) :
    execute s =
      let r := ((s.setLastResult .cont).setPc (s.pc + 1)).fetchOperands row (s.memRead8 s.pc)
      StepEnd.ofOutcome (exec r.1 r.2) r.2 := by
  rw [execute, executeWith, if_neg (by omega)]
  show (match findRow (s.memRead8 s.pc) with | none => _ | some row => _) = _
  rw [hrow]
  rfl

theorem StepEnd.ofOutcome_outcome (o : Host.Outcome State Fault Refusal) (s : State) :
    (StepEnd.ofOutcome o s).outcome = o := by
  cases o <;> rfl

/-- Everything a step can do: halt at the boundary, fault on an undefined opcode, or run one instruction in the
state with PC moved on. -/
theorem step_cases (s : State) :
    (config.haltBoundary ≤ s.pc.toNat ∧ step s = .next (s.halt .boundary)) ∨
    (s.pc.toNat < config.haltBoundary ∧ s.memRead8 s.pc ∈ undefinedOpcodes ∧
      step s = .fault (.illegalOpcode s.pc (s.memRead8 s.pc))) ∨
    (s.pc.toNat < config.haltBoundary ∧
      ∃ i pc, step s = exec i ((s.setLastResult .cont).setPc pc)) := by
  by_cases h : config.haltBoundary ≤ s.pc.toNat
  · exact .inl ⟨h, by rw [step, execute_boundary h]⟩
  · have h' : s.pc.toNat < config.haltBoundary := by omega
    cases hrow : findRow (s.memRead8 s.pc) with
    | none =>
      have hop := (findRow_none_iff _).mp hrow
      exact .inr (.inl ⟨h', hop, by rw [step, execute_undefined h' hop]; rfl⟩)
    | some row =>
      obtain ⟨pc, hpc⟩ := State.fetchOperands_state ((s.setLastResult .cont).setPc (s.pc + 1)) row
        (s.memRead8 s.pc)
      refine .inr (.inr ⟨h', (((s.setLastResult .cont).setPc (s.pc + 1)).fetchOperands row
        (s.memRead8 s.pc)).1, pc, ?_⟩)
      rw [step, execute_row h' hrow, StepEnd.ofOutcome_outcome, hpc]
      rfl

end Sys2Proof.Machine
end

