-- ==== Sys2Proof/Laws/Interface.lean ====
section
/-! SUPPORT. The host's operations keep the canonical form of the arrays: bus writes, image load, raw import,
placing an instruction, undoing a record of changes. -/

namespace Sys2Proof.Machine

theorem State.busSet8_wf {s t : State} {space : Space} {index : Nat} {v : Byte} (h : s.wf = true)
    (hs : s.busSet8 space index v = .ok t) : t.wf = true := by
  rw [State.busSet8, busCheck] at hs
  split at hs
  · rename_i hlt
    have hw := State.wf_iff.mp h
    cases space <;> cases hs
    · exact State.wf_iff.mpr ⟨Memory.write_wf hw.1 hlt v, hw.2⟩
    · exact State.wf_iff.mpr ⟨hw.1, Memory.write_wf hw.2 hlt v⟩
  · cases hs

/-- The bus refuses an index beyond the array and no other (rule R61). -/
theorem State.busGet8_eq (s : State) (space : Space) (index : Nat) :
    s.busGet8 space index =
      if index < space.cells then .ok ((s.array space).read index) else .error (.busFault index) := by
  rw [State.busGet8, busCheck]
  split <;> rfl

theorem State.storeImage_wf (code : List Byte) {s t : State} {index : Nat} (h : s.wf = true)
    (hs : s.storeImage index code = .ok t) : t.wf = true := by
  induction code generalizing s index with
  | nil => cases hs; exact h
  | cons v rest ih =>
    rw [State.storeImage] at hs
    cases hb : s.busSet8 .mem index v with
    | error e => rw [hb] at hs; cases hs
    | ok s₁ =>
      rw [hb] at hs
      exact ih (State.busSet8_wf h hb) hs

theorem State.rawImport_wf {s : State} (h : s.wf = true) (space : Space)
    (bytes : Vector Byte space.cells) : (s.rawImport space bytes).wf = true := by
  have hb : (Memory.ofBytes 0 bytes.toList).wf space.cells = true :=
    Memory.ofBytes_wf (by rw [Vector.length_toList])
  cases space
  · exact State.wf_iff.mpr ⟨hb, (State.wf_iff.mp h).2⟩
  · exact State.wf_iff.mpr ⟨(State.wf_iff.mp h).1, hb⟩

theorem State.placeInstruction_wf {s : State} (h : s.wf = true) (op lo hi : Byte) :
    (s.placeInstruction op lo hi).wf = true := by
  have hw := State.wf_iff.mp h
  have hp := s.pc.isLt
  have hq := (s.pc + 1).isLt
  have h1 := Memory.write_wf hw.1 (i := s.pc.toNat) (by unfold memCells; omega) op
  have h2 := Memory.write_wf h1 (i := (s.pc + 1).toNat) (by unfold memCells; omega) lo
  exact State.wf_iff.mpr ⟨Memory.write_wf h2 (by unfold memCells; omega) hi, hw.2⟩

theorem State.withFetchWord_wf {s : State} (h : s.wf = true) (nbits w : Nat) :
    (s.withFetchWord nbits w).wf = true := by
  rw [State.withFetchWord]
  split
  · exact State.placeInstruction_wf (s := s.setPc config.codeOrigin) h _ _ _
  · exact State.placeInstruction_wf h _ _ _

/-- The cells of a record of changes lie inside the arrays it was made from. -/
theorem Memory.undoCells_lt {cells : Nat} {old new : Memory} (ho : old.wf cells = true)
    (hn : new.wf cells = true) : ∀ cell ∈ Memory.undoCells old new, cell.1 < cells := by
  intro cell hc
  rcases List.mem_append.mp hc with hc | hc
  · exact Memory.index_lt ho (List.mem_filter.mp hc).1
  · obtain ⟨c, hm, rfl⟩ := List.mem_map.mp hc
    exact Memory.index_lt (cell := c) hn (List.mem_filter.mp hm).1

theorem Changes.apply_diff_wf {s t : State} (hs : s.wf = true) (ht : t.wf = true) :
    ((s.diff t).apply t).wf = true :=
  State.wf_iff.mpr
    ⟨Memory.writeAll_wf _ (State.wf_iff.mp ht).1
        (Memory.undoCells_lt (State.wf_iff.mp hs).1 (State.wf_iff.mp ht).1),
      Memory.writeAll_wf _ (State.wf_iff.mp ht).2
        (Memory.undoCells_lt (State.wf_iff.mp hs).2 (State.wf_iff.mp ht).2)⟩

end Sys2Proof.Machine
end

