-- ==== Sys2Proof/Laws/PerInstr.lean ====
section
/-! SUPPORT. Statements made instruction by instruction. Family `Opcode` (rules R84, R96, R100): the opcode byte is
none of the ten undefined ones, and it alone says how many operand bytes follow. -/

namespace Sys2Proof.Laws.Opcode

/-- The opcode byte is defined, and the number of operand bytes is the one rule R84 gives it. -/
def Statement (i : Instr) : Prop :=
  i.opcode ∉ Machine.undefinedOpcodes ∧
    i.operandBytes.length =
      if i.opcode ∈ Machine.threeByteOpcodes then 2
      else if i.opcode ∈ Machine.twoByteOpcodes then 1 else 0

/-- From the opcode byte and the number of operand bytes. -/
theorem of_opcode {i : Instr} (op : Byte) (n : Nat) (hop : i.opcode = op) (hn : i.operandBytes.length = n)
    (h : op ∉ Machine.undefinedOpcodes ∧
      n = if op ∈ Machine.threeByteOpcodes then 2 else if op ∈ Machine.twoByteOpcodes then 1 else 0) :
    Statement i := by
  rw [Statement, hop, hn]
  exact h

theorem mov (dst src : Reg8) : Statement (.mov dst src) := by
  refine of_opcode _ 0 rfl rfl ?_
  cases dst <;> cases src <;> decide
theorem mvi (dst : Reg8) (v : Byte) : Statement (.mvi dst v) := by
  refine of_opcode ((Instr.mvi dst 0).opcode) 1 rfl rfl ?_
  cases dst <;> decide
theorem lxi (p : Pair) (v : Word) : Statement (.lxi p v) := by
  refine of_opcode ((Instr.lxi p 0).opcode) 2 rfl rfl ?_
  cases p <;> decide
theorem stax (p : IndexPair) : Statement (.stax p) := by
  refine of_opcode _ 0 rfl rfl ?_
  cases p <;> decide
theorem ldax (p : IndexPair) : Statement (.ldax p) := by
  refine of_opcode _ 0 rfl rfl ?_
  cases p <;> decide
theorem sta (addr : Word) : Statement (.sta addr) := of_opcode 0x32 2 rfl rfl (by decide)
theorem lda (addr : Word) : Statement (.lda addr) := of_opcode 0x3A 2 rfl rfl (by decide)
theorem shld (addr : Word) : Statement (.shld addr) := of_opcode 0x22 2 rfl rfl (by decide)
theorem lhld (addr : Word) : Statement (.lhld addr) := of_opcode 0x2A 2 rfl rfl (by decide)
theorem xchg : Statement .xchg := of_opcode 0xEB 0 rfl rfl (by decide)
theorem push (p : StackPair) : Statement (.push p) := by
  refine of_opcode _ 0 rfl rfl ?_
  cases p <;> decide
theorem pop (p : StackPair) : Statement (.pop p) := by
  refine of_opcode _ 0 rfl rfl ?_
  cases p <;> decide
theorem xthl : Statement .xthl := of_opcode 0xE3 0 rfl rfl (by decide)
theorem sphl : Statement .sphl := of_opcode 0xF9 0 rfl rfl (by decide)
theorem add (src : Reg8) : Statement (.add src) := by
  refine of_opcode _ 0 rfl rfl ?_
  cases src <;> decide
theorem adc (src : Reg8) : Statement (.adc src) := by
  refine of_opcode _ 0 rfl rfl ?_
  cases src <;> decide
theorem sub (src : Reg8) : Statement (.sub src) := by
  refine of_opcode _ 0 rfl rfl ?_
  cases src <;> decide
theorem sbb (src : Reg8) : Statement (.sbb src) := by
  refine of_opcode _ 0 rfl rfl ?_
  cases src <;> decide
theorem adi (v : Byte) : Statement (.adi v) := of_opcode 0xC6 1 rfl rfl (by decide)
theorem aci (v : Byte) : Statement (.aci v) := of_opcode 0xCE 1 rfl rfl (by decide)
theorem sui (v : Byte) : Statement (.sui v) := of_opcode 0xD6 1 rfl rfl (by decide)
theorem sbi (v : Byte) : Statement (.sbi v) := of_opcode 0xDE 1 rfl rfl (by decide)
theorem inr (dst : Reg8) : Statement (.inr dst) := by
  refine of_opcode _ 0 rfl rfl ?_
  cases dst <;> decide
theorem dcr (dst : Reg8) : Statement (.dcr dst) := by
  refine of_opcode _ 0 rfl rfl ?_
  cases dst <;> decide
theorem inx (p : Pair) : Statement (.inx p) := by
  refine of_opcode _ 0 rfl rfl ?_
  cases p <;> decide
theorem dcx (p : Pair) : Statement (.dcx p) := by
  refine of_opcode _ 0 rfl rfl ?_
  cases p <;> decide
theorem dad (p : Pair) : Statement (.dad p) := by
  refine of_opcode _ 0 rfl rfl ?_
  cases p <;> decide
theorem daa : Statement .daa := of_opcode 0x27 0 rfl rfl (by decide)
theorem ana (src : Reg8) : Statement (.ana src) := by
  refine of_opcode _ 0 rfl rfl ?_
  cases src <;> decide
theorem xra (src : Reg8) : Statement (.xra src) := by
  refine of_opcode _ 0 rfl rfl ?_
  cases src <;> decide
theorem ora (src : Reg8) : Statement (.ora src) := by
  refine of_opcode _ 0 rfl rfl ?_
  cases src <;> decide
theorem cmp (src : Reg8) : Statement (.cmp src) := by
  refine of_opcode _ 0 rfl rfl ?_
  cases src <;> decide
theorem ani (v : Byte) : Statement (.ani v) := of_opcode 0xE6 1 rfl rfl (by decide)
theorem xri (v : Byte) : Statement (.xri v) := of_opcode 0xEE 1 rfl rfl (by decide)
theorem ori (v : Byte) : Statement (.ori v) := of_opcode 0xF6 1 rfl rfl (by decide)
theorem cpi (v : Byte) : Statement (.cpi v) := of_opcode 0xFE 1 rfl rfl (by decide)
theorem rlc : Statement .rlc := of_opcode 0x07 0 rfl rfl (by decide)
theorem rrc : Statement .rrc := of_opcode 0x0F 0 rfl rfl (by decide)
theorem ral : Statement .ral := of_opcode 0x17 0 rfl rfl (by decide)
theorem rar : Statement .rar := of_opcode 0x1F 0 rfl rfl (by decide)
theorem cma : Statement .cma := of_opcode 0x2F 0 rfl rfl (by decide)
theorem stc : Statement .stc := of_opcode 0x37 0 rfl rfl (by decide)
theorem cmc : Statement .cmc := of_opcode 0x3F 0 rfl rfl (by decide)
theorem jmp (addr : Word) : Statement (.jmp addr) := of_opcode 0xC3 2 rfl rfl (by decide)
theorem jnz (addr : Word) : Statement (.jnz addr) := of_opcode 0xC2 2 rfl rfl (by decide)
theorem jz (addr : Word) : Statement (.jz addr) := of_opcode 0xCA 2 rfl rfl (by decide)
theorem jnc (addr : Word) : Statement (.jnc addr) := of_opcode 0xD2 2 rfl rfl (by decide)
theorem jc (addr : Word) : Statement (.jc addr) := of_opcode 0xDA 2 rfl rfl (by decide)
theorem jpo (addr : Word) : Statement (.jpo addr) := of_opcode 0xE2 2 rfl rfl (by decide)
theorem jpe (addr : Word) : Statement (.jpe addr) := of_opcode 0xEA 2 rfl rfl (by decide)
theorem jp (addr : Word) : Statement (.jp addr) := of_opcode 0xF2 2 rfl rfl (by decide)
theorem jm (addr : Word) : Statement (.jm addr) := of_opcode 0xFA 2 rfl rfl (by decide)
theorem call (addr : Word) : Statement (.call addr) := of_opcode 0xCD 2 rfl rfl (by decide)
theorem cnz (addr : Word) : Statement (.cnz addr) := of_opcode 0xC4 2 rfl rfl (by decide)
theorem cz (addr : Word) : Statement (.cz addr) := of_opcode 0xCC 2 rfl rfl (by decide)
theorem cnc (addr : Word) : Statement (.cnc addr) := of_opcode 0xD4 2 rfl rfl (by decide)
theorem cc (addr : Word) : Statement (.cc addr) := of_opcode 0xDC 2 rfl rfl (by decide)
theorem cpo (addr : Word) : Statement (.cpo addr) := of_opcode 0xE4 2 rfl rfl (by decide)
theorem cpe (addr : Word) : Statement (.cpe addr) := of_opcode 0xEC 2 rfl rfl (by decide)
theorem cp (addr : Word) : Statement (.cp addr) := of_opcode 0xF4 2 rfl rfl (by decide)
theorem cm (addr : Word) : Statement (.cm addr) := of_opcode 0xFC 2 rfl rfl (by decide)
theorem ret : Statement .ret := of_opcode 0xC9 0 rfl rfl (by decide)
theorem rnz : Statement .rnz := of_opcode 0xC0 0 rfl rfl (by decide)
theorem rz : Statement .rz := of_opcode 0xC8 0 rfl rfl (by decide)
theorem rnc : Statement .rnc := of_opcode 0xD0 0 rfl rfl (by decide)
theorem rc : Statement .rc := of_opcode 0xD8 0 rfl rfl (by decide)
theorem rpo : Statement .rpo := of_opcode 0xE0 0 rfl rfl (by decide)
theorem rpe : Statement .rpe := of_opcode 0xE8 0 rfl rfl (by decide)
theorem rp : Statement .rp := of_opcode 0xF0 0 rfl rfl (by decide)
theorem rm : Statement .rm := of_opcode 0xF8 0 rfl rfl (by decide)
theorem rst (n : BitVec 3) : Statement (.rst n) := of_opcode _ 0 rfl rfl (by revert n; decide)
theorem pchl : Statement .pchl := of_opcode 0xE9 0 rfl rfl (by decide)
theorem in_ (port : Byte) : Statement (.in_ port) := of_opcode 0xDB 1 rfl rfl (by decide)
theorem out (port : Byte) : Statement (.out port) := of_opcode 0xD3 1 rfl rfl (by decide)
theorem nop : Statement .nop := of_opcode 0x00 0 rfl rfl (by decide)
theorem hlt : Statement .hlt := of_opcode 0x76 0 rfl rfl (by decide)
theorem ei : Statement .ei := of_opcode 0xFB 0 rfl rfl (by decide)
theorem di : Statement .di := of_opcode 0xF3 0 rfl rfl (by decide)
theorem rim : Statement .rim := of_opcode 0x20 0 rfl rfl (by decide)
theorem sim : Statement .sim := of_opcode 0x30 0 rfl rfl (by decide)

end Sys2Proof.Laws.Opcode
end

