-- ==== Sys2Proof/Tests/Slice0.lean ====
section
/-! SUPPORT. Tests of one step each, their expected values from the spec: the vectors of 95_test_vectors.md by their
ids, the examples of the rules, and words written out bit by bit from the patterns of rule R86; and a witness for the
hypotheses of every obligation that has some. -/

open Sys2Proof Sys2Proof.Machine

/-- `s` with bytes at its PC. -/
def placed (bytes : List Byte) (s : State) : State :=
  s.setMem (s.mem.writeAll (bytes.zipIdx.map (fun row => (s.pc.toNat + row.2, row.1))))

/-- One step from `s` answers a next state that meets `p`. -/
def stepTo (s : State) (p : State → Bool) : Bool :=
  match step s with
  | .next t => p t
  | .fault _ => false
  | .refused _ => false

/-- The flags named are 1, the others 0. -/
def flagsOn (names : List FlagName) : Flags :=
  { s := names.contains .s, z := names.contains .z, ac := names.contains .ac, p := names.contains .p,
    cy := names.contains .cy }

/-- The reset state with a stack that holds 0xABCD, and with given flags. -/
def withFlags (f : Flags) : State :=
  { State.reset with sp := 0x3000, flags := f, mem := [(0x3000, 0xCD), (0x3001, 0xAB)] }

/-! ### Well-formedness -/

theorem test_wf_refuses_mov_m_m : Instr.wf (.mov .m .m) = false := by decide

theorem test_wf_accepts_mov_m_a_and_a_m : Instr.wf (.mov .m .a) = true ∧ Instr.wf (.mov .a .m) = true := by
  decide

/-! ### Decoding: a word of every constructor from the bit patterns of rule R86, low byte first -/

theorem test_decode_data_transfer :
    [decodeTableWord 8 0b01011110, decodeTableWord 16 0b1010010100101110, decodeTableWord 24 0x123411,
        decodeTableWord 8 0b00010010, decodeTableWord 8 0b00001010, decodeTableWord 24 0x200032,
        decodeTableWord 24 0x20003A, decodeTableWord 24 0x300022, decodeTableWord 24 0x30002A,
        decodeTableWord 8 0b11101011] =
      [some (.mov .e .m), some (.mvi .l 0xA5), some (.lxi .de 0x1234), some (.stax .de), some (.ldax .bc),
        some (.sta 0x2000), some (.lda 0x2000), some (.shld 0x3000), some (.lhld 0x3000), some .xchg] := by
  decide

theorem test_decode_stack :
    [decodeTableWord 8 0b11010101, decodeTableWord 8 0b11110001, decodeTableWord 8 0b11100011,
        decodeTableWord 8 0b11111001] = [some (.push .de), some (.pop .psw), some .xthl, some .sphl] := by
  decide

theorem test_decode_arithmetic :
    [decodeTableWord 8 0b10000010, decodeTableWord 8 0b10001011, decodeTableWord 8 0b10010100,
        decodeTableWord 8 0b10011101, decodeTableWord 16 0x03C6, decodeTableWord 16 0xBECE,
        decodeTableWord 16 0x01D6, decodeTableWord 16 0x01DE, decodeTableWord 8 0b00110100,
        decodeTableWord 8 0b00111101, decodeTableWord 8 0b00100011, decodeTableWord 8 0b00011011,
        decodeTableWord 8 0b00111001, decodeTableWord 8 0b00100111] =
      [some (.add .d), some (.adc .e), some (.sub .h), some (.sbb .l), some (.adi 0x03), some (.aci 0xBE),
        some (.sui 0x01), some (.sbi 0x01), some (.inr .m), some (.dcr .a), some (.inx .hl), some (.dcx .de),
        some (.dad .sp), some .daa] := by
  decide

theorem test_decode_logical :
    [decodeTableWord 8 0b10100110, decodeTableWord 8 0b10101111, decodeTableWord 8 0b10110001,
        decodeTableWord 8 0b10111011, decodeTableWord 16 0x0FE6, decodeTableWord 16 0x81EE,
        decodeTableWord 16 0x0FF6, decodeTableWord 16 0x40FE, decodeTableWord 8 0b00000111,
        decodeTableWord 8 0b00001111, decodeTableWord 8 0b00010111, decodeTableWord 8 0b00011111,
        decodeTableWord 8 0b00101111, decodeTableWord 8 0b00110111, decodeTableWord 8 0b00111111] =
      [some (.ana .m), some (.xra .a), some (.ora .c), some (.cmp .e), some (.ani 0x0F), some (.xri 0x81),
        some (.ori 0x0F), some (.cpi 0x40), some .rlc, some .rrc, some .ral, some .rar, some .cma, some .stc,
        some .cmc] := by
  decide

theorem test_decode_jumps :
    [decodeTableWord 24 0xC010C3, decodeTableWord 24 0xC034C2, decodeTableWord 24 0xC034CA,
        decodeTableWord 24 0xC034D2, decodeTableWord 24 0xC034DA, decodeTableWord 24 0xC034E2,
        decodeTableWord 24 0xC034EA, decodeTableWord 24 0xC034F2, decodeTableWord 24 0xC034FA,
        decodeTableWord 8 0b11101001] =
      [some (.jmp 0xC010), some (.jnz 0xC034), some (.jz 0xC034), some (.jnc 0xC034), some (.jc 0xC034),
        some (.jpo 0xC034), some (.jpe 0xC034), some (.jp 0xC034), some (.jm 0xC034), some .pchl] := by
  decide

theorem test_decode_calls :
    [decodeTableWord 24 0xC020CD, decodeTableWord 24 0xC040C4, decodeTableWord 24 0xC040CC,
        decodeTableWord 24 0xC040D4, decodeTableWord 24 0xC040DC, decodeTableWord 24 0xC040E4,
        decodeTableWord 24 0xC040EC, decodeTableWord 24 0xC040F4, decodeTableWord 24 0xC040FC,
        decodeTableWord 8 0b11101111] =
      [some (.call 0xC020), some (.cnz 0xC040), some (.cz 0xC040), some (.cnc 0xC040), some (.cc 0xC040),
        some (.cpo 0xC040), some (.cpe 0xC040), some (.cp 0xC040), some (.cm 0xC040), some (.rst 5)] := by
  decide

theorem test_decode_returns :
    [decodeTableWord 8 0b11001001, decodeTableWord 8 0b11000000, decodeTableWord 8 0b11001000,
        decodeTableWord 8 0b11010000, decodeTableWord 8 0b11011000, decodeTableWord 8 0b11100000,
        decodeTableWord 8 0b11101000, decodeTableWord 8 0b11110000, decodeTableWord 8 0b11111000] =
      [some .ret, some .rnz, some .rz, some .rnc, some .rc, some .rpo, some .rpe, some .rp, some .rm] := by
  decide

theorem test_decode_io_control :
    [decodeTableWord 16 0x10DB, decodeTableWord 16 0x01D3, decodeTableWord 8 0b00000000,
        decodeTableWord 8 0b01110110, decodeTableWord 8 0b11111011, decodeTableWord 8 0b11110011,
        decodeTableWord 8 0b00100000, decodeTableWord 8 0b00110000] =
      [some (.in_ 0x10), some (.out 0x01), some .nop, some .hlt, some .ei, some .di, some .rim, some .sim] := by
  decide

/-- The ten bytes of rule R96. -/
theorem test_decode_undefined :
    [0x08, 0x10, 0x18, 0x28, 0x38, 0xCB, 0xD9, 0xDD, 0xED, 0xFD].all
      (fun w => decodeTableWord 8 w == none) = true := by
  decide

/-- A word placed by the host's function is what the next step runs, also when PC is at the boundary. -/
theorem test_with_fetch_word :
    stepTo (State.reset.withFetchWord 24 0x123421) (fun t => t.hl == 0x1234 && t.pc == 0xC003) = true ∧
      stepTo ((State.reset.setPc 0xD000).withFetchWord 16 0x053E) (fun t => t.a == 0x05) = true := by
  decide

/-! ### One step of every instruction -/

/-- DT1: MOV A,M. -/
theorem test_mov_load :
    stepTo (placed [0x7E] { State.reset with h := 0x20, l := 0x10, mem := [(0x2010, 0x5A)] })
      (fun t => t.a == 0x5A && t.pc == 0xC001 && t.flags == Flags.clear) = true := by
  decide

/-- DT3: MOV H,M (address from the old HL). -/
theorem test_mov_h_m :
    stepTo (placed [0x66] { State.reset with h := 0x20, l := 0x10, mem := [(0x2010, 0x30)] })
      (fun t => t.h == 0x30 && t.pc == 0xC001 && t.flags == Flags.clear) = true := by
  decide

/-- DT7: MVI A,0x05. -/
theorem test_mvi :
    stepTo (placed [0x3E, 0x05] State.reset)
      (fun t => t.a == 0x05 && t.pc == 0xC002 && t.flags == Flags.clear) = true := by
  decide

/-- DT8: MVI M,0xFF. -/
theorem test_mvi_m :
    stepTo (placed [0x36, 0xFF] { State.reset with h := 0x40, l := 0x00 })
      (fun t => t.pc == 0xC002 && t.mem.read 0x4000 == 0xFF && t.flags == Flags.clear) = true := by
  decide

/-- DT9: LXI HL,0x1234. -/
theorem test_lxi :
    stepTo (placed [0x21, 0x34, 0x12] State.reset)
      (fun t => t.h == 0x12 && t.l == 0x34 && t.pc == 0xC003 && t.flags == Flags.clear) = true := by
  decide

/-- DT10: LXI SP,0xFFFF. -/
theorem test_lxi_sp :
    stepTo (placed [0x31, 0xFF, 0xFF] State.reset)
      (fun t => t.sp == 0xFFFF && t.pc == 0xC003 && t.flags == Flags.clear) = true := by
  decide

/-- DT13: STAX DE. -/
theorem test_stax :
    stepTo (placed [0x12] { State.reset with a := 0x01, d := 0xFF, e := 0xFF })
      (fun t => t.pc == 0xC001 && t.mem.read 0xFFFF == 0x01 && t.flags == Flags.clear) = true := by
  decide

/-- DT15: LDAX BC (reads its own opcode). -/
theorem test_ldax :
    stepTo (placed [0x0A] { State.reset with b := 0xC0, c := 0x00 })
      (fun t => t.a == 0x0A && t.pc == 0xC001 && t.flags == Flags.clear) = true := by
  decide

/-- DT17: STA 0xC000 (over its own opcode; this step unaffected). -/
theorem test_sta :
    stepTo (placed [0x32, 0x00, 0xC0] { State.reset with a := 0x76 })
      (fun t => t.pc == 0xC003 && t.mem.read 0xC000 == 0x76 && t.flags == Flags.clear) = true := by
  decide

/-- DT19: LDA 0x2000. -/
theorem test_lda :
    stepTo (placed [0x3A, 0x00, 0x20] { State.reset with mem := [(0x2000, 0x0F)] })
      (fun t => t.a == 0x0F && t.pc == 0xC003 && t.flags == Flags.clear) = true := by
  decide

/-- DT21: SHLD 0xFFFF (guard cell). -/
theorem test_shld_guard :
    stepTo (placed [0x22, 0xFF, 0xFF] { State.reset with h := 0xAB, l := 0xCD })
      (fun t => t.pc == 0xC003 && t.mem.read 0xFFFF == 0xCD && t.mem.read 0x10000 == 0xAB &&
        t.flags == Flags.clear) = true := by
  decide

/-- DT23: LHLD 0xFFFF (guard cell, not MEM[0]). -/
theorem test_lhld_guard :
    stepTo (placed [0x2A, 0xFF, 0xFF]
      { State.reset with mem := [(0x0000, 0x99), (0xFFFF, 0x11), (0x10000, 0x22)] })
      (fun t => t.h == 0x22 && t.l == 0x11 && t.pc == 0xC003 && t.flags == Flags.clear) = true := by
  decide

/-- DT24: XCHG. -/
theorem test_xchg :
    stepTo (placed [0xEB] { State.reset with d := 0x12, e := 0x34, h := 0xAB, l := 0xCD })
      (fun t => t.d == 0xAB && t.e == 0xCD && t.h == 0x12 && t.l == 0x34 && t.pc == 0xC001 &&
        t.flags == Flags.clear) = true := by
  decide

/-- ST3: PUSH PSW. -/
theorem test_push_psw :
    stepTo (placed [0xF5]
      { State.reset with a := 0x80, sp := 0x3000, flags := { Flags.clear with s := true, ac := true, cy := true } })
      (fun t => t.sp == 0x2FFE && t.pc == 0xC001 && t.mem.read 0x2FFE == 0x91 &&
        t.mem.read 0x2FFF == 0x80 && t.flags == flagsOn [.s, .ac, .cy]) = true := by
  decide

/-- ST6: PUSH BC with SP=0x0001 (guard cell). -/
theorem test_push_guard :
    stepTo (placed [0xC5] { State.reset with b := 0x12, c := 0x34, sp := 0x0001 })
      (fun t => t.sp == 0xFFFF && t.pc == 0xC001 && t.mem.read 0xFFFF == 0x34 &&
        t.mem.read 0x10000 == 0x12 && t.flags == Flags.clear) = true := by
  decide

/-- ST9: POP PSW, byte 0x2A (only bits 5, 3, 1 set). -/
theorem test_pop_psw :
    stepTo (placed [0xF1]
      { State.reset with sp := 0x2FFE, flags := { Flags.clear with s := true, z := true, ac := true, p := true, cy := true }, mem := [(0x2FFE, 0x2A), (0x2FFF, 0x42)] })
      (fun t => t.a == 0x42 && t.sp == 0x3000 && t.pc == 0xC001 && t.flags == Flags.clear) = true := by
  decide

/-- ST11: POP HL with SP=0xFFFF (guard cell). -/
theorem test_pop_guard :
    stepTo (placed [0xE1]
      { State.reset with sp := 0xFFFF, mem := [(0x0000, 0x99), (0xFFFF, 0xCD), (0x10000, 0xAB)] })
      (fun t => t.h == 0xAB && t.l == 0xCD && t.sp == 0x0001 && t.pc == 0xC001 &&
        t.flags == Flags.clear) = true := by
  decide

/-- ST13: XTHL. -/
theorem test_xthl :
    stepTo (placed [0xE3]
      { State.reset with sp := 0x2FFE, h := 0x12, l := 0x34, mem := [(0x2FFE, 0x78), (0x2FFF, 0x56)] })
      (fun t => t.h == 0x56 && t.l == 0x78 && t.pc == 0xC001 && t.mem.read 0x2FFE == 0x34 &&
        t.mem.read 0x2FFF == 0x12 && t.flags == Flags.clear) = true := by
  decide

/-- ST14: SPHL. -/
theorem test_sphl :
    stepTo (placed [0xF9] { State.reset with h := 0x40, l := 0x00 })
      (fun t => t.sp == 0x4000 && t.pc == 0xC001 && t.flags == Flags.clear) = true := by
  decide

/-- AR3: ADD M. -/
theorem test_add_m :
    stepTo (placed [0x86] { State.reset with a := 0xFF, h := 0x20, l := 0x00, mem := [(0x2000, 0x01)] })
      (fun t => t.a == 0x00 && t.pc == 0xC001 && t.flags == flagsOn [.z, .ac, .p, .cy]) = true := by
  decide

/-- AR5: ADC B, carry-in with operand 0xFF. -/
theorem test_adc :
    stepTo (placed [0x88]
      { State.reset with a := 0x10, b := 0xFF, flags := { Flags.clear with cy := true } })
      (fun t => t.pc == 0xC001 && t.flags == flagsOn [.ac, .cy]) = true := by
  decide

/-- AR8: SUB M, borrow. -/
theorem test_sub_m :
    stepTo (placed [0x96] { State.reset with a := 0x00, h := 0x20, l := 0x00, mem := [(0x2000, 0x01)] })
      (fun t => t.a == 0xFF && t.pc == 0xC001 && t.flags == flagsOn [.s, .ac, .p, .cy]) = true := by
  decide

/-- AR10: SBB A with CY=1. -/
theorem test_sbb :
    stepTo (placed [0x9F] { State.reset with a := 0x33, flags := { Flags.clear with cy := true } })
      (fun t => t.a == 0xFF && t.pc == 0xC001 && t.flags == flagsOn [.s, .ac, .p, .cy]) = true := by
  decide

/-- AR13: ADI 0x01, wrap. -/
theorem test_adi :
    stepTo (placed [0xC6, 0x01] { State.reset with a := 0xFF })
      (fun t => t.a == 0x00 && t.pc == 0xC002 && t.flags == flagsOn [.z, .ac, .p, .cy]) = true := by
  decide

/-- AR14: ACI 0xBE. -/
theorem test_aci :
    stepTo (placed [0xCE, 0xBE] { State.reset with a := 0x56, flags := { Flags.clear with cy := true } })
      (fun t => t.a == 0x15 && t.pc == 0xC002 && t.flags == flagsOn [.ac, .cy]) = true := by
  decide

/-- AR15: SUI 0x01. -/
theorem test_sui :
    stepTo (placed [0xD6, 0x01] { State.reset with a := 0x00 })
      (fun t => t.a == 0xFF && t.pc == 0xC002 && t.flags == flagsOn [.s, .ac, .p, .cy]) = true := by
  decide

/-- AR16: SBI 0x01. -/
theorem test_sbi :
    stepTo (placed [0xDE, 0x01] { State.reset with a := 0x00, flags := { Flags.clear with cy := true } })
      (fun t => t.a == 0xFE && t.pc == 0xC002 && t.flags == flagsOn [.s, .ac, .cy]) = true := by
  decide

/-- AR17: INR A from 0xFF, CY kept. -/
theorem test_inr :
    stepTo (placed [0x3C] { State.reset with a := 0xFF, flags := { Flags.clear with cy := true } })
      (fun t => t.a == 0x00 && t.pc == 0xC001 && t.flags == flagsOn [.z, .ac, .p, .cy]) = true := by
  decide

/-- AR19: INR M. -/
theorem test_inr_m :
    stepTo (placed [0x34] { State.reset with h := 0x20, l := 0x00, mem := [(0x2000, 0x0F)] })
      (fun t => t.pc == 0xC001 && t.mem.read 0x2000 == 0x10 && t.flags == flagsOn [.ac]) = true := by
  decide

/-- AR22: DCR B from 0x00, CY kept. -/
theorem test_dcr :
    stepTo (placed [0x05] { State.reset with b := 0x00, flags := { Flags.clear with cy := true } })
      (fun t => t.b == 0xFF && t.pc == 0xC001 && t.flags == flagsOn [.s, .ac, .p, .cy]) = true := by
  decide

/-- AR23: DCR M from 0x10. -/
theorem test_dcr_m :
    stepTo (placed [0x35] { State.reset with h := 0x20, l := 0x00, mem := [(0x2000, 0x10)] })
      (fun t => t.pc == 0xC001 && t.mem.read 0x2000 == 0x0F && t.flags == flagsOn [.ac, .p]) = true := by
  decide

/-- AR24: INX BC, ripple. -/
theorem test_inx_ripple :
    stepTo (placed [0x03] { State.reset with b := 0x12, c := 0xFF })
      (fun t => t.b == 0x13 && t.c == 0x00 && t.pc == 0xC001 && t.flags == Flags.clear) = true := by
  decide

/-- AR25: INX SP from 0xFFFF. -/
theorem test_inx_sp :
    stepTo (placed [0x33] { State.reset with sp := 0xFFFF })
      (fun t => t.sp == 0x0000 && t.pc == 0xC001 && t.flags == Flags.clear) = true := by
  decide

/-- AR27: DCX DE. -/
theorem test_dcx :
    stepTo (placed [0x1B] { State.reset with d := 0x10, e := 0x00 })
      (fun t => t.d == 0x0F && t.e == 0xFF && t.pc == 0xC001 && t.flags == Flags.clear) = true := by
  decide

/-- AR28: DCX HL from 0x0000, no flags. -/
theorem test_dcx_wraps :
    stepTo (placed [0x2B] State.reset)
      (fun t => t.h == 0xFF && t.l == 0xFF && t.pc == 0xC001 && t.flags == Flags.clear) = true := by
  decide

/-- AR31: DAD DE, carry. -/
theorem test_dad_carry :
    stepTo (placed [0x19] { State.reset with h := 0xFF, l := 0xFF, d := 0x00, e := 0x01 })
      (fun t => t.h == 0x00 && t.l == 0x00 && t.pc == 0xC001 && t.flags == flagsOn [.cy]) = true := by
  decide

/-- AR33: DAD SP. -/
theorem test_dad_sp :
    stepTo (placed [0x39]
      { State.reset with h := 0x00, l := 0x10, sp := 0x3000, flags := { Flags.clear with cy := true } })
      (fun t => t.h == 0x30 && t.pc == 0xC001 && t.flags == Flags.clear) = true := by
  decide

/-- AR34: DAA after 0x38+0x45. -/
theorem test_daa :
    stepTo (placed [0x27] { State.reset with a := 0x7D })
      (fun t => t.a == 0x83 && t.pc == 0xC001 && t.flags == flagsOn [.s, .ac]) = true := by
  decide

/-- LG1: ANA C. -/
theorem test_ana :
    stepTo (placed [0xA1]
      { State.reset with a := 0xFC, c := 0x0F, flags := { Flags.clear with cy := true } })
      (fun t => t.a == 0x0C && t.pc == 0xC001 && t.flags == flagsOn [.ac, .p]) = true := by
  decide

/-- LG4: XRA A. -/
theorem test_xra :
    stepTo (placed [0xAF]
      { State.reset with a := 0x5C, flags := { Flags.clear with cy := true, ac := true, s := true } })
      (fun t => t.a == 0x00 && t.pc == 0xC001 && t.flags == flagsOn [.z, .p]) = true := by
  decide

/-- LG6: ORA C. -/
theorem test_ora :
    stepTo (placed [0xB1]
      { State.reset with a := 0x33, c := 0x0F, flags := { Flags.clear with ac := true, cy := true } })
      (fun t => t.a == 0x3F && t.pc == 0xC001 && t.flags == flagsOn [.p]) = true := by
  decide

/-- LG9: CMP E, less. -/
theorem test_cmp_less :
    stepTo (placed [0xBB] { State.reset with a := 0x02, e := 0x05 })
      (fun t => t.pc == 0xC001 && t.flags == flagsOn [.s, .ac, .cy]) = true := by
  decide

/-- LG11: CMP M, equal. -/
theorem test_cmp_m :
    stepTo (placed [0xBE] { State.reset with a := 0x41, h := 0x20, l := 0x00, mem := [(0x2000, 0x41)] })
      (fun t => t.pc == 0xC001 && t.flags == flagsOn [.z, .p]) = true := by
  decide

/-- LG12: ANI 0x0F. -/
theorem test_ani :
    stepTo (placed [0xE6, 0x0F] { State.reset with a := 0x3A })
      (fun t => t.a == 0x0A && t.pc == 0xC002 && t.flags == flagsOn [.ac, .p]) = true := by
  decide

/-- LG14: XRI 0x81. -/
theorem test_xri :
    stepTo (placed [0xEE, 0x81] { State.reset with a := 0x3B })
      (fun t => t.a == 0xBA && t.pc == 0xC002 && t.flags == flagsOn [.s]) = true := by
  decide

/-- LG16: ORI 0x0F. -/
theorem test_ori :
    stepTo (placed [0xF6, 0x0F] { State.reset with a := 0xB5 })
      (fun t => t.a == 0xBF && t.pc == 0xC002 && t.flags == flagsOn [.s]) = true := by
  decide

/-- LG20: CPI 0x41, less. -/
theorem test_cpi :
    stepTo (placed [0xFE, 0x41] { State.reset with a := 0x40 })
      (fun t => t.pc == 0xC002 && t.flags == flagsOn [.s, .ac, .p, .cy]) = true := by
  decide

/-- LG21: RLC. -/
theorem test_rlc :
    stepTo (placed [0x07] { State.reset with a := 0xF2 })
      (fun t => t.a == 0xE5 && t.pc == 0xC001 && t.flags == flagsOn [.cy]) = true := by
  decide

/-- LG24: RRC of 0x01. -/
theorem test_rrc :
    stepTo (placed [0x0F] { State.reset with a := 0x01 })
      (fun t => t.a == 0x80 && t.pc == 0xC001 && t.flags == flagsOn [.cy]) = true := by
  decide

/-- LG26: RAL with CY=1. -/
theorem test_ral :
    stepTo (placed [0x17] { State.reset with a := 0x00, flags := { Flags.clear with cy := true } })
      (fun t => t.a == 0x01 && t.pc == 0xC001 && t.flags == Flags.clear) = true := by
  decide

/-- LG27: RAR. -/
theorem test_rar :
    stepTo (placed [0x1F] { State.reset with a := 0x6A, flags := { Flags.clear with cy := true } })
      (fun t => t.a == 0xB5 && t.pc == 0xC001 && t.flags == Flags.clear) = true := by
  decide

/-- LG29: CMA. -/
theorem test_cma :
    stepTo (placed [0x2F] { State.reset with a := 0x51, flags := { Flags.clear with z := true } })
      (fun t => t.a == 0xAE && t.pc == 0xC001 && t.flags == flagsOn [.z]) = true := by
  decide

/-- LG30: STC. -/
theorem test_stc :
    stepTo (placed [0x37] State.reset)
      (fun t => t.pc == 0xC001 && t.flags == flagsOn [.cy]) = true := by
  decide

/-- LG32: CMC. -/
theorem test_cmc :
    stepTo (placed [0x3F] { State.reset with flags := { Flags.clear with cy := true } })
      (fun t => t.pc == 0xC001 && t.flags == Flags.clear) = true := by
  decide

/-- CT4: JMP at 0xCFFE, operands at 0xCFFF and 0xD000. -/
theorem test_jmp :
    stepTo (placed [0xC3, 0x00, 0xC1] { State.reset with pc := 0xCFFE })
      (fun t => t.pc == 0xC100 && t.flags == Flags.clear) = true := by
  decide

/-- CT15: CALL 0xC020 at 0xC005. -/
theorem test_call :
    stepTo (placed [0xCD, 0x20, 0xC0] { State.reset with sp := 0x3000, pc := 0xC005 })
      (fun t => t.sp == 0x2FFE && t.pc == 0xC020 && t.mem.read 0x2FFE == 0x08 &&
        t.mem.read 0x2FFF == 0xC0 && t.flags == Flags.clear) = true := by
  decide

/-- CT16: CALL with SP=0x0000. -/
theorem test_call_wraps :
    stepTo (placed [0xCD, 0x20, 0xC0] State.reset)
      (fun t => t.sp == 0xFFFE && t.pc == 0xC020 && t.mem.read 0xFFFE == 0x03 &&
        t.mem.read 0xFFFF == 0xC0 && t.flags == Flags.clear) = true := by
  decide

/-- CT25: RET. -/
theorem test_ret :
    stepTo (placed [0xC9] { State.reset with sp := 0x2FFE, mem := [(0x2FFE, 0x08), (0x2FFF, 0xC0)] })
      (fun t => t.sp == 0x3000 && t.pc == 0xC008 && t.flags == Flags.clear) = true := by
  decide

/-- CT36: RST 5 at 0xC010. -/
theorem test_rst :
    stepTo (placed [0xEF] { State.reset with sp := 0x3000, pc := 0xC010 })
      (fun t => t.sp == 0x2FFE && t.pc == 0x0028 && t.mem.read 0x2FFE == 0x11 &&
        t.mem.read 0x2FFF == 0xC0 && t.flags == Flags.clear) = true := by
  decide

/-- CT38: PCHL. -/
theorem test_pchl :
    stepTo (placed [0xE9] { State.reset with h := 0xC1, l := 0x23 })
      (fun t => t.pc == 0xC123 && t.flags == Flags.clear) = true := by
  decide

/-- MC1: IN 0x10. -/
theorem test_in :
    stepTo (placed [0xDB, 0x10] { State.reset with io := [(0x10, 0x5A)] })
      (fun t => t.a == 0x5A && t.pc == 0xC002 && t.flags == Flags.clear) = true := by
  decide

/-- MC3: OUT 0x01. -/
theorem test_out :
    stepTo (placed [0xD3, 0x01] { State.reset with a := 0x7E })
      (fun t => t.pc == 0xC002 && t.io.read 0x01 == 0x7E && t.flags == Flags.clear) = true := by
  decide

/-- MC5: NOP. -/
theorem test_nop :
    stepTo (placed [0x00] State.reset)
      (fun t => t.pc == 0xC001 && t.flags == Flags.clear) = true := by
  decide

/-- MC6: HLT at 0xC004. -/
theorem test_hlt :
    stepTo (placed [0x76] { State.reset with pc := 0xC004 })
      (fun t => t.pc == 0xC005 && t.flags == Flags.clear) = true := by
  decide

/-- MC7: EI. -/
theorem test_ei :
    stepTo (placed [0xFB] State.reset)
      (fun t => t.pc == 0xC001 && t.flags == Flags.clear) = true := by
  decide

/-- MC8: DI. -/
theorem test_di :
    stepTo (placed [0xF3] State.reset)
      (fun t => t.pc == 0xC001 && t.flags == Flags.clear) = true := by
  decide

/-- MC9: RIM (A kept). -/
theorem test_rim :
    stepTo (placed [0x20] { State.reset with a := 0x33 })
      (fun t => t.pc == 0xC001 && t.flags == Flags.clear) = true := by
  decide

/-- MC10: SIM. -/
theorem test_sim :
    stepTo (placed [0x30] { State.reset with a := 0xC0 })
      (fun t => t.pc == 0xC001 && t.flags == Flags.clear) = true := by
  decide

/-- MC11: step with PC=0xD000 (no fetch; the byte there is never read). -/
theorem test_boundary :
    stepTo (placed [0x3C] { State.reset with pc := 0xD000 })
      (fun t => t.flags == Flags.clear) = true := by
  decide

/-- MC13: step with PC=0xCFFF: last address that fetches. -/
theorem test_last_fetch :
    stepTo (placed [0x3C] { State.reset with pc := 0xCFFF })
      (fun t => t.a == 0x01 && t.pc == 0xD000 && t.flags == Flags.clear) = true := by
  decide

/-- MC25: 0x76 as an operand is data. -/
theorem test_hlt_byte_as_operand :
    stepTo (placed [0x3E, 0x76] State.reset)
      (fun t => t.a == 0x76 && t.pc == 0xC002 && t.flags == Flags.clear) = true := by
  decide

/-! ### Conditional transfers, with only the tested flag at its value -/

/-- Rule R203: taken and not taken; only the tested flag has the value named. -/
theorem test_jnz :
    stepTo (placed [0xC2, 0x34, 0xC0] (withFlags (flagsOn [.s, .ac, .p, .cy]))) (fun t => t.pc == 0xC034) = true ∧
      stepTo (placed [0xC2, 0x34, 0xC0] (withFlags (flagsOn [.z]))) (fun t => t.pc == 0xC003) = true := by
  decide

/-- Rule R204: taken and not taken; only the tested flag has the value named. -/
theorem test_jz :
    stepTo (placed [0xCA, 0x34, 0xC0] (withFlags (flagsOn [.z]))) (fun t => t.pc == 0xC034) = true ∧
      stepTo (placed [0xCA, 0x34, 0xC0] (withFlags (flagsOn [.s, .ac, .p, .cy]))) (fun t => t.pc == 0xC003) = true := by
  decide

/-- Rule R205: taken and not taken; only the tested flag has the value named. -/
theorem test_jnc :
    stepTo (placed [0xD2, 0x34, 0xC0] (withFlags (flagsOn [.s, .z, .ac, .p]))) (fun t => t.pc == 0xC034) = true ∧
      stepTo (placed [0xD2, 0x34, 0xC0] (withFlags (flagsOn [.cy]))) (fun t => t.pc == 0xC003) = true := by
  decide

/-- Rule R206: taken and not taken; only the tested flag has the value named. -/
theorem test_jc :
    stepTo (placed [0xDA, 0x34, 0xC0] (withFlags (flagsOn [.cy]))) (fun t => t.pc == 0xC034) = true ∧
      stepTo (placed [0xDA, 0x34, 0xC0] (withFlags (flagsOn [.s, .z, .ac, .p]))) (fun t => t.pc == 0xC003) = true := by
  decide

/-- Rule R207: taken and not taken; only the tested flag has the value named. -/
theorem test_jpo :
    stepTo (placed [0xE2, 0x34, 0xC0] (withFlags (flagsOn [.s, .z, .ac, .cy]))) (fun t => t.pc == 0xC034) = true ∧
      stepTo (placed [0xE2, 0x34, 0xC0] (withFlags (flagsOn [.p]))) (fun t => t.pc == 0xC003) = true := by
  decide

/-- Rule R208: taken and not taken; only the tested flag has the value named. -/
theorem test_jpe :
    stepTo (placed [0xEA, 0x34, 0xC0] (withFlags (flagsOn [.p]))) (fun t => t.pc == 0xC034) = true ∧
      stepTo (placed [0xEA, 0x34, 0xC0] (withFlags (flagsOn [.s, .z, .ac, .cy]))) (fun t => t.pc == 0xC003) = true := by
  decide

/-- Rule R209: taken and not taken; only the tested flag has the value named. -/
theorem test_jp :
    stepTo (placed [0xF2, 0x34, 0xC0] (withFlags (flagsOn [.z, .ac, .p, .cy]))) (fun t => t.pc == 0xC034) = true ∧
      stepTo (placed [0xF2, 0x34, 0xC0] (withFlags (flagsOn [.s]))) (fun t => t.pc == 0xC003) = true := by
  decide

/-- Rule R210: taken and not taken; only the tested flag has the value named. -/
theorem test_jm :
    stepTo (placed [0xFA, 0x34, 0xC0] (withFlags (flagsOn [.s]))) (fun t => t.pc == 0xC034) = true ∧
      stepTo (placed [0xFA, 0x34, 0xC0] (withFlags (flagsOn [.z, .ac, .p, .cy]))) (fun t => t.pc == 0xC003) = true := by
  decide

/-- Rule R212. -/
theorem test_cnz :
    stepTo (placed [0xC4, 0x40, 0xC0] (withFlags (flagsOn [.s, .ac, .p, .cy])))
        (fun t => t.pc == 0xC040 && t.sp == 0x2FFE && t.mem.read 0x2FFE == 0x03 && t.mem.read 0x2FFF == 0xC0) = true ∧
      stepTo (placed [0xC4, 0x40, 0xC0] (withFlags (flagsOn [.z])))
        (fun t => t.pc == 0xC003 && t.sp == 0x3000 && t.mem.read 0x2FFE == 0x00) = true := by
  decide

/-- Rule R213. -/
theorem test_cz :
    stepTo (placed [0xCC, 0x40, 0xC0] (withFlags (flagsOn [.z])))
        (fun t => t.pc == 0xC040 && t.sp == 0x2FFE && t.mem.read 0x2FFE == 0x03 && t.mem.read 0x2FFF == 0xC0) = true ∧
      stepTo (placed [0xCC, 0x40, 0xC0] (withFlags (flagsOn [.s, .ac, .p, .cy])))
        (fun t => t.pc == 0xC003 && t.sp == 0x3000 && t.mem.read 0x2FFE == 0x00) = true := by
  decide

/-- Rule R214. -/
theorem test_cnc :
    stepTo (placed [0xD4, 0x40, 0xC0] (withFlags (flagsOn [.s, .z, .ac, .p])))
        (fun t => t.pc == 0xC040 && t.sp == 0x2FFE && t.mem.read 0x2FFE == 0x03 && t.mem.read 0x2FFF == 0xC0) = true ∧
      stepTo (placed [0xD4, 0x40, 0xC0] (withFlags (flagsOn [.cy])))
        (fun t => t.pc == 0xC003 && t.sp == 0x3000 && t.mem.read 0x2FFE == 0x00) = true := by
  decide

/-- Rule R215. -/
theorem test_cc :
    stepTo (placed [0xDC, 0x40, 0xC0] (withFlags (flagsOn [.cy])))
        (fun t => t.pc == 0xC040 && t.sp == 0x2FFE && t.mem.read 0x2FFE == 0x03 && t.mem.read 0x2FFF == 0xC0) = true ∧
      stepTo (placed [0xDC, 0x40, 0xC0] (withFlags (flagsOn [.s, .z, .ac, .p])))
        (fun t => t.pc == 0xC003 && t.sp == 0x3000 && t.mem.read 0x2FFE == 0x00) = true := by
  decide

/-- Rule R216. -/
theorem test_cpo :
    stepTo (placed [0xE4, 0x40, 0xC0] (withFlags (flagsOn [.s, .z, .ac, .cy])))
        (fun t => t.pc == 0xC040 && t.sp == 0x2FFE && t.mem.read 0x2FFE == 0x03 && t.mem.read 0x2FFF == 0xC0) = true ∧
      stepTo (placed [0xE4, 0x40, 0xC0] (withFlags (flagsOn [.p])))
        (fun t => t.pc == 0xC003 && t.sp == 0x3000 && t.mem.read 0x2FFE == 0x00) = true := by
  decide

/-- Rule R217. -/
theorem test_cpe :
    stepTo (placed [0xEC, 0x40, 0xC0] (withFlags (flagsOn [.p])))
        (fun t => t.pc == 0xC040 && t.sp == 0x2FFE && t.mem.read 0x2FFE == 0x03 && t.mem.read 0x2FFF == 0xC0) = true ∧
      stepTo (placed [0xEC, 0x40, 0xC0] (withFlags (flagsOn [.s, .z, .ac, .cy])))
        (fun t => t.pc == 0xC003 && t.sp == 0x3000 && t.mem.read 0x2FFE == 0x00) = true := by
  decide

/-- Rule R218. -/
theorem test_cp :
    stepTo (placed [0xF4, 0x40, 0xC0] (withFlags (flagsOn [.z, .ac, .p, .cy])))
        (fun t => t.pc == 0xC040 && t.sp == 0x2FFE && t.mem.read 0x2FFE == 0x03 && t.mem.read 0x2FFF == 0xC0) = true ∧
      stepTo (placed [0xF4, 0x40, 0xC0] (withFlags (flagsOn [.s])))
        (fun t => t.pc == 0xC003 && t.sp == 0x3000 && t.mem.read 0x2FFE == 0x00) = true := by
  decide

/-- Rule R219. -/
theorem test_cm :
    stepTo (placed [0xFC, 0x40, 0xC0] (withFlags (flagsOn [.s])))
        (fun t => t.pc == 0xC040 && t.sp == 0x2FFE && t.mem.read 0x2FFE == 0x03 && t.mem.read 0x2FFF == 0xC0) = true ∧
      stepTo (placed [0xFC, 0x40, 0xC0] (withFlags (flagsOn [.z, .ac, .p, .cy])))
        (fun t => t.pc == 0xC003 && t.sp == 0x3000 && t.mem.read 0x2FFE == 0x00) = true := by
  decide

/-- Rule R221. -/
theorem test_rnz :
    stepTo (placed [0xC0] (withFlags (flagsOn [.s, .ac, .p, .cy]))) (fun t => t.pc == 0xABCD && t.sp == 0x3002) = true ∧
      stepTo (placed [0xC0] (withFlags (flagsOn [.z]))) (fun t => t.pc == 0xC001 && t.sp == 0x3000) = true := by
  decide

/-- Rule R222. -/
theorem test_rz :
    stepTo (placed [0xC8] (withFlags (flagsOn [.z]))) (fun t => t.pc == 0xABCD && t.sp == 0x3002) = true ∧
      stepTo (placed [0xC8] (withFlags (flagsOn [.s, .ac, .p, .cy]))) (fun t => t.pc == 0xC001 && t.sp == 0x3000) = true := by
  decide

/-- Rule R223. -/
theorem test_rnc :
    stepTo (placed [0xD0] (withFlags (flagsOn [.s, .z, .ac, .p]))) (fun t => t.pc == 0xABCD && t.sp == 0x3002) = true ∧
      stepTo (placed [0xD0] (withFlags (flagsOn [.cy]))) (fun t => t.pc == 0xC001 && t.sp == 0x3000) = true := by
  decide

/-- Rule R224. -/
theorem test_rc :
    stepTo (placed [0xD8] (withFlags (flagsOn [.cy]))) (fun t => t.pc == 0xABCD && t.sp == 0x3002) = true ∧
      stepTo (placed [0xD8] (withFlags (flagsOn [.s, .z, .ac, .p]))) (fun t => t.pc == 0xC001 && t.sp == 0x3000) = true := by
  decide

/-- Rule R225. -/
theorem test_rpo :
    stepTo (placed [0xE0] (withFlags (flagsOn [.s, .z, .ac, .cy]))) (fun t => t.pc == 0xABCD && t.sp == 0x3002) = true ∧
      stepTo (placed [0xE0] (withFlags (flagsOn [.p]))) (fun t => t.pc == 0xC001 && t.sp == 0x3000) = true := by
  decide

/-- Rule R226. -/
theorem test_rpe :
    stepTo (placed [0xE8] (withFlags (flagsOn [.p]))) (fun t => t.pc == 0xABCD && t.sp == 0x3002) = true ∧
      stepTo (placed [0xE8] (withFlags (flagsOn [.s, .z, .ac, .cy]))) (fun t => t.pc == 0xC001 && t.sp == 0x3000) = true := by
  decide

/-- Rule R227. -/
theorem test_rp :
    stepTo (placed [0xF0] (withFlags (flagsOn [.z, .ac, .p, .cy]))) (fun t => t.pc == 0xABCD && t.sp == 0x3002) = true ∧
      stepTo (placed [0xF0] (withFlags (flagsOn [.s]))) (fun t => t.pc == 0xC001 && t.sp == 0x3000) = true := by
  decide

/-- Rule R228. -/
theorem test_rm :
    stepTo (placed [0xF8] (withFlags (flagsOn [.s]))) (fun t => t.pc == 0xABCD && t.sp == 0x3002) = true ∧
      stepTo (placed [0xF8] (withFlags (flagsOn [.z, .ac, .p, .cy]))) (fun t => t.pc == 0xC001 && t.sp == 0x3000) = true := by
  decide

/-! ### Faults and halts -/

/-- MC19. -/
theorem test_fault_undefined_opcode :
    (execute (placed [0xCB, 0x34, 0x12] State.reset)).left =
      ((placed [0xCB, 0x34, 0x12] State.reset).setPc 0xC001).setLastResult
        (.fault (.illegalOpcode 0xC000 0xCB)) := by
  decide

/-- MC6 and MC11: the host reads which halt it was. -/
theorem test_halt_reasons :
    stepTo (placed [0x76] State.reset) (fun t => t.lastResult == .halted .hlt) = true ∧
      stepTo (State.reset.setPc 0xD000) (fun t => t.lastResult == .halted .boundary) = true := by
  decide

/-! ### The encoder (vectors LX and EN) -/

/-- LX3. -/
theorem test_lex_label_and_instruction :
    tokenize "loop:MOV A,B\n".toList =
      .ok [⟨.name "loop".toList, ⟨1, 1⟩⟩, ⟨.colon, ⟨1, 5⟩⟩, ⟨.name "MOV".toList, ⟨1, 6⟩⟩,
        ⟨.name "A".toList, ⟨1, 10⟩⟩, ⟨.comma, ⟨1, 11⟩⟩, ⟨.name "B".toList, ⟨1, 12⟩⟩, ⟨.newLine, ⟨1, 13⟩⟩] := by
  decide

/-- LX11 and LX12. -/
theorem test_lex_errors :
    tokenize "0x\n".toList = .error ⟨.emptyHexLiteral, some ⟨1, 1⟩⟩ ∧
      tokenize "MOV A/B\n".toList = .error ⟨.invalidCharacter, some ⟨1, 6⟩⟩ := by
  decide

/-- EN2, EN5 and EN9. -/
theorem test_labels :
    assembleText "JNZ end\nend:".toList = .ok [0xC2, 0x03, 0xC0] ∧
      assembleText "x: NOP\nx: NOP\nJMP x".toList = .ok [0x00, 0x00, 0xC3, 0x01, 0xC0] ∧
      assembleText "CALL f\nHLT\nf: RET".toList = .ok [0xCD, 0x04, 0xC0, 0x76, 0xC9] := by
  decide

/-- EN6 and EN20. -/
theorem test_label_not_defined :
    assembleText "JMP Loop\nloop: HLT".toList = .error ⟨.labelNotDefined "Loop".toList, none⟩ ∧
      assembleText "LXI HL, 0x12345".toList = .error ⟨.labelNotDefined "0x12345".toList, none⟩ := by
  decide

/-- EN14, EN25 and EN27. -/
theorem test_operand_errors :
    assembleText "MOV M, M".toList = .error ⟨.movMM, some ⟨1, 8⟩⟩ ∧
      assembleText "STAX HL".toList = .error ⟨.illegalPair, some ⟨1, 6⟩⟩ ∧
      assembleText "RST 0x8".toList = .error ⟨.valueOutOfRange, some ⟨1, 5⟩⟩ := by
  decide

/-- EN34, EN37 and EN40. -/
theorem test_statement_errors :
    assembleText "NOP: HLT".toList = .error ⟨.mnemonicAsLabel, some ⟨1, 4⟩⟩ ∧
      assembleText "beefh: NOP".toList = .error ⟨.unexpectedLiteral, some ⟨1, 1⟩⟩ ∧
      assembleText "NOP NOP".toList = .error ⟨.endOfLineExpected, some ⟨1, 5⟩⟩ := by
  decide

/-- Vector S2: the document's own program, assembled. -/
theorem test_document_program :
    assembleText "MVI A, 0x05\nADI 0x03\nHLT".toList = .ok [0x3E, 0x05, 0xC6, 0x03, 0x76] := by
  decide

/-- LX5's comment and the label `a` of rule R306, at the parameters of this machine. -/
theorem test_comment_and_register_label :
    assembleText "\t// only a comment\nNOP ; stop".toList = .ok [0x00] ∧
      assembleText "a: JMP a".toList = .ok [0xC3, 0x00, 0xC0] := by
  decide

/-- Rule R372 taken at its word: no comments, no label that spells a register name, and the rest as before. -/
theorem test_strict_source :
    assembleTextWith { strictSource := true } "NOP ; stop".toList = .error ⟨.invalidCharacter, some ⟨1, 5⟩⟩ ∧
      assembleTextWith { strictSource := true } "NOP\nSP: HLT".toList = .error ⟨.registerAsLabel, some ⟨2, 3⟩⟩ ∧
      assembleTextWith { strictSource := true } "x: JMP x".toList = .ok [0xC3, 0x00, 0xC0] := by
  decide

/-! ### Witnesses for the hypotheses of the obligations -/

/-- A canonical state in which every kind of cell is in use, the guard bytes included, with an INX SP at PC. -/
def sampleState : State :=
  { State.reset with
    a := 0x45, b := 0xC0, c := 0x01, d := 0xFF, e := 0xFF, h := 0x20, l := 0x00, sp := 0x0001,
    flags := flagsOn [.cy, .p], mem := [(0x2000, 0x7F), (0xC000, 0x33), (0xFFFF, 0x11), (0x10000, 0x22)],
    io := [(0xFF, 0x5A), (0x100, 0x01)] }

/-- The canonical form is met: the hypothesis of ByteReadAfterWrite, WordAccessLittleEndian, MviLoadsTheByte,
StaxAndStaStoreA, ShldAndLhldMoveHl, XchgXthlSphlMoveHl, PushStoresTheWord, PushThenPopRestores, InrIncrements,
DcrDecrements, Calls, ReturnComesBack, RstAndPchl, InAndOut, UndoRestoresTheState and the like. -/
theorem witness_canonical_state : sampleState.wf = true := by decide

theorem witness_DecodeInvertsEncode : Instr.wf (.mov .a .m) = true ∧ Instr.wf (.rst 7) = true := by decide

theorem witness_EncodeInvertsDecode : decode [0x31, 0xFF, 0xFF, 0x76] = .ok (.lxi .sp 0xFFFF) [0x76] := by decide

/-- An undefined and a defined byte; a step at the last address that fetches. -/
theorem witness_LengthFollowsOpcode :
    (0x08 : Byte) ∈ undefinedOpcodes ∧ (0xFF : Byte) ∉ undefinedOpcodes ∧
      (placed [0xFD] (State.reset.setPc 0xCFFF)).pc.toNat < config.haltBoundary ∧
      (placed [0xFD] (State.reset.setPc 0xCFFF)).memRead8 0xCFFF ∈ undefinedOpcodes := by
  decide

/-- An instruction whose operand bytes lie at and above the boundary. -/
theorem witness_StepRunsDecodedInstruction :
    (0xCFFF : Word).toNat < config.haltBoundary ∧
      decode [(placed [0x21, 0x34, 0x12] (State.reset.setPc 0xCFFF)).mem.read 0xCFFF,
        (placed [0x21, 0x34, 0x12] (State.reset.setPc 0xCFFF)).mem.read 0xD000,
        (placed [0x21, 0x34, 0x12] (State.reset.setPc 0xCFFF)).mem.read 0xD001] = .ok (.lxi .hl 0x1234) [] := by
  decide

theorem witness_IllegalOpcodeFault :
    (0xC000 : Word).toNat < config.haltBoundary ∧
      (placed [0x10] State.reset).mem.read 0xC000 ∈ undefinedOpcodes := by
  decide

theorem witness_OnlyIllegalOpcodeStops :
    step (placed [0xED] State.reset) = .fault (.illegalOpcode 0xC000 0xED) := by rfl

/-- Each clause: a step that continues, a boundary halt, an HLT. -/
theorem witness_OnlyTwoWaysToHalt :
    stepTo sampleState (fun t => t.lastResult == .cont) = true ∧
      stepTo (State.reset.setPc 0xD000) (fun t => t.lastResult == .halted .boundary) = true ∧
      stepTo (placed [0x76] (State.reset.setPc 0xCFFF)) (fun t => t.lastResult == .halted .hlt) = true := by
  decide

/-- Each clause: PC exactly at the boundary, and an HLT at the last address that fetches. -/
theorem witness_HaltingIsAResult :
    config.haltBoundary ≤ (0xD000 : Word).toNat ∧ (0xCFFF : Word).toNat < config.haltBoundary ∧
      (placed [0x76] (State.reset.setPc 0xCFFF)).mem.read 0xCFFF = 0x76 := by
  decide

theorem witness_NopSlide :
    State.reset.lastResult = .cont ∧ State.reset.pc.toNat + 0x1000 ≤ config.haltBoundary ∧
      ∀ k, k < 0x1000 → State.reset.mem.read (State.reset.pc.toNat + k) = 0x00 :=
  ⟨rfl, by decide, fun _ _ => rfl⟩

theorem witness_EveryStepKeepsCanonicalState :
    sampleState.wf = true ∧ stepTo sampleState (fun t => t.sp == 0x0002) = true := by
  decide

/-- The five clauses: a flag INR does not write, the ANDs, the other logical operations, STC, and an instruction
that reads CY with every other flag changed. -/
theorem witness_FlagTable :
    (∃ t, exec (.inr .b) sampleState = .next t) ∧ FlagName.cy ∉ flagsWritten (.inr .b) ∧
      (∃ t, exec (.ana .m) sampleState = .next t) ∧ (∃ t, exec (.xra .a) sampleState = .next t) ∧
      (∃ t, exec .stc sampleState = .next t) ∧
      (∀ f ∈ flagsRead .ral, (flagsOn [.cy, .s, .z]).get f = sampleState.flags.get f) ∧
      (∃ t, exec .ral sampleState = .next t) ∧
      ∃ t, exec .ral (sampleState.setFlags (flagsOn [.cy, .s, .z])) = .next t :=
  ⟨⟨_, rfl⟩, by decide, ⟨_, rfl⟩, ⟨_, rfl⟩, ⟨_, rfl⟩, by decide, ⟨_, rfl⟩, ⟨_, rfl⟩⟩

theorem witness_OnlyListedRegistersChange :
    (∃ t, exec .xchg sampleState = .next t) ∧ Reg8.b ≠ .m ∧ Reg8.b ∉ regsWritten .xchg ∧
      movesSp .xchg = false ∧ transfersControl .xchg = false ∧ Instr.xchg ≠ .hlt :=
  ⟨⟨_, rfl⟩, by decide, by decide, rfl, rfl, by decide⟩

/-- A cell beside the two a push at SP = 1 writes, and a port beside the one OUT writes. -/
theorem witness_OnlyComputedCellsChange :
    sampleState.wf = true ∧ (∃ t, exec (.push .bc) sampleState = .next t) ∧
      0x0000 ∉ storedCells (.push .bc) sampleState ∧ (∃ t, exec (.out 0xFF) sampleState = .next t) ∧
      0x100 ∉ storedPorts (.out 0xFF) :=
  ⟨by decide, ⟨_, rfl⟩, by decide, ⟨_, rfl⟩, by decide⟩

/-- The three ways the guard byte of memory is written. -/
theorem witness_GuardBytes :
    sampleState.wf = true ∧ (∃ t, exec (.shld 0xFFFF) sampleState = .next t) ∧
      (∃ t, exec .xthl (sampleState.setSp 0xFFFF) = .next t) ∧
      (∃ t, exec (.push .bc) sampleState = .next t) ∧
      storedCells (.push .bc) sampleState = pushCells sampleState ∧ sampleState.sp = 0x0001 ∧
      0x10000 ∈ pushCells sampleState :=
  ⟨by decide, ⟨_, rfl⟩, ⟨_, rfl⟩, ⟨_, rfl⟩, by decide⟩

theorem witness_SpacesReachedOnlyByTheirInstructions :
    (∃ t, exec .xthl sampleState = .next t) ∧ reachesIo .xthl = false ∧
      (∃ t, exec (.out 0x00) sampleState = .next t) ∧ reachesMemory (.out 0x00) = false :=
  ⟨⟨_, rfl⟩, rfl, ⟨_, rfl⟩, rfl⟩

/-- Each clause at the ends of both arrays. -/
theorem witness_BusRefusesBeyondTheArray :
    sampleState.wf = true ∧ 0x10000 < Space.cells .mem ∧ Space.cells .mem ≤ 0x10001 ∧
      0xFFFF + 1 < Space.cells .mem ∧ Space.cells .mem ≤ 0x10000 + 1 ∧ 0x100 < Space.cells .io ∧
      Space.cells .io ≤ 0x101 ∧ 0xFF + 1 < Space.cells .io ∧ Space.cells .io ≤ 0x100 + 1 := by
  decide

/-- Both clauses of the result, and equal operands. -/
theorem witness_MovCopiesTheSource :
    sampleState.wf = true ∧ ¬(Reg8.a = .m ∧ Reg8.m = .m) ∧ ¬(Reg8.m = .m ∧ Reg8.h = .m) ∧
      ¬(Reg8.b = .m ∧ Reg8.b = .m) := by
  decide

/-- A word and the halves its bytes are, at the top of the range. -/
theorem witness_EncodedWord : 256 * (0xFF : Byte).toNat + (0xFF : Byte).toNat = (0xFFFF : Word).toNat := by
  decide

theorem witness_DecimalAddition :
    (0x99 : Byte).toNat % 16 ≤ 9 ∧ (0x99 : Byte).toNat / 16 ≤ 9 ∧
      (sampleState.setA 0x99).a.toNat % 16 ≤ 9 ∧ (sampleState.setA 0x99).a.toNat / 16 ≤ 9 := by
  decide

/-- A literal that fits and one that does not. -/
theorem witness_HexLiteralsRoundTrip :
    readHex 0 "fFfF".toList = some 0xFFFF ∧ readHex 0 "10000".toList = some 0x10000 ∧
      "fFfF".toList ≠ [] := by
  decide

theorem witness_AssembledInstructionIsItsEncoding :
    Instr.wf (.mvi .m 0x05) = true ∧
      [(⟨.name "mvi".toList, ⟨1, 1⟩⟩ : PosToken), ⟨.name "M".toList, ⟨1, 5⟩⟩, ⟨.comma, ⟨1, 6⟩⟩,
        ⟨.hexLiteral "0x05".toList, ⟨1, 8⟩⟩, ⟨.newLine, ⟨1, 12⟩⟩].map PosToken.tok =
        statementOf (.mvi .m 0x05) ++ [.newLine] := by
  decide

theorem witness_AssembledProgramDecodes :
    assemble [⟨.name "rst".toList, ⟨1, 1⟩⟩, ⟨.hexLiteral "7h".toList, ⟨1, 5⟩⟩, ⟨.newLine, ⟨1, 7⟩⟩] = .ok [0xFF] := by
  decide

theorem witness_LabelReferences : findMnemonic "loop".toList = none ∧ findMnemonic "sp".toList = none := by
  decide

/-- Each clause: two references in one buffer, a missing name after one that is declared, and a failing pass 1. -/
theorem witness_PassTwoResolvesReferences :
    (∀ r ∈ [(1, "x".toList), (4, "x".toList)], ∃ v, lookupText [("x".toList, (0xFFFF : Word))] r.2 = some v) ∧
      (∀ r ∈ [(1, "x".toList), (4, "x".toList)], r.1 + 1 < [(0xC3 : Byte), 0, 0, 0xC3, 0, 0].length) ∧
      [(1, "x".toList), (4, "x".toList)].Pairwise (fun r q => r.1 + 2 ≤ q.1) ∧
      lookupText [("x".toList, (0xFFFF : Word))] "y".toList = none ∧
      passOne config [⟨.comma, ⟨1, 1⟩⟩] = .error ⟨.statementExpected, some ⟨1, 1⟩⟩ := by
  refine ⟨?_, by decide, by decide, by decide, by decide⟩
  intro r hr
  simp only [List.mem_cons, List.not_mem_nil, or_false] at hr
  rcases hr with rfl | rfl <;> exact ⟨0xFFFF, by decide⟩

theorem witness_EncoderKeepsItsInvariant :
    (EncoderState.initial config).wf config = true ∧
      (passOneStep (EncoderState.initial config) ⟨.name "nop".toList, ⟨1, 1⟩⟩).isOk = true := by
  decide

/-- A program of the greatest length, and the empty one. -/
theorem witness_LoadImagePlacesProgram :
    sampleState.wf = true ∧ (List.replicate 0x4000 (0x76 : Byte)).length ≤ 0x4000 ∧
      ([] : List Byte).length ≤ 0x4000 :=
  ⟨by decide, (List.length_replicate ..).le, Nat.zero_le _⟩
end

section
/-! SUPPORT. The fetch of a step against the decoder: the bytes at PC below the halt boundary, and no halted latch. -/

namespace Sys2Proof.Machine

/-- A step first overwrites the report of the one before it, and reads no report (rule R40). -/
theorem execute_setLastResult (s : State) (r : StepResult) : execute (s.setLastResult r) = execute s := rfl

theorem encoded_hlt : Encoded .hlt [0x76] := ⟨rfl, fun _ => rfl⟩

/-- The format of a row of the opcode map (rule R86) is the length of every instruction the row builds. -/
theorem opcodeRows_length : ∀ row ∈ opcodeRows, ∀ (op d8 : Byte) (imm : Word),
    (encode (row.build op d8 imm)).length = row.format.length := by
  simp only [opcodeRows, dataTransferRows, stackRows, arithmeticRows, logicalRows, jumpRows, callRows, returnRows,
    ioControlRows, List.cons_append, List.nil_append, List.forall_mem_cons, List.not_mem_nil, false_imp_iff,
    implies_true, and_true]
  and_intros
  all_goals exact fun _ _ _ => rfl

/-- What three bytes that decode are: the opcode byte of a row, and the operand bytes its format has. -/
theorem decode_three {op x y : Byte} {i : Instr} {rest : List Byte} (h : decode [op, x, y] = .ok i rest) :
    ∃ row, findRow op = some row ∧
      ((row.format = .f1 ∧ i = row.build op 0 0) ∨ (row.format = .f2 ∧ i = row.build op x 0) ∨
        (row.format = .f3 ∧ i = row.build op 0 (joinBytes y x))) := by
  unfold decode at h
  cases hrow : findRow op with
  | none => simp [hrow] at h
  | some row =>
    refine ⟨row, rfl, ?_⟩
    cases hf : row.format
    all_goals
      simp only [hrow, hf] at h
      cases h
    · exact .inl ⟨rfl, rfl⟩
    · exact .inr (.inl ⟨rfl, rfl⟩)
    · exact .inr (.inr ⟨rfl, rfl⟩)

/-- Below the halt boundary PC does not wrap. -/
theorem toNat_pc_add_one {s : State} (h : s.pc.toNat < config.haltBoundary) :
    (s.pc + 1).toNat = s.pc.toNat + 1 := by
  have hb : config.haltBoundary = 0xD000 := rfl
  rw [BitVec.toNat_add, show (1 : Word).toNat = 1 from rfl]
  omega

/-- The operand fetch of a step reads the bytes that decoding reads, and moves PC past them. -/
theorem fetchOperands_of_decode {s : State} {i : Instr} {rest : List Byte}
    (hpc : s.pc.toNat < config.haltBoundary)
    (h : decode [s.mem.read s.pc.toNat, s.mem.read (s.pc.toNat + 1), s.mem.read (s.pc.toNat + 2)] = .ok i rest) :
    ∃ row, findRow (s.memRead8 s.pc) = some row ∧
      ((s.setLastResult .cont).setPc (s.pc + 1)).fetchOperands row (s.memRead8 s.pc) =
        (i, (s.setLastResult .cont).setPc (s.pc + BitVec.ofNat 16 (encode i).length)) := by
  obtain ⟨row, hrow, hi⟩ := decode_three h
  have hlen := opcodeRows_length row (List.mem_of_find?_eq_some hrow)
  refine ⟨row, hrow, ?_⟩
  rw [State.fetchOperands_eq]
  rcases hi with ⟨hf, rfl⟩ | ⟨hf, rfl⟩ | ⟨hf, rfl⟩
  all_goals
    simp only [hlen, hf, State.memRead8, State.memRead16, State.setPc_pc, State.setPc_mem, State.setLastResult_mem,
      toNat_pc_add_one hpc, State.setPc_setPc, BitVec.add_assoc]
    rfl

end Sys2Proof.Machine
end

section
/-! SUPPORT. What each state operation and each instruction leaves of the registers, SP, PC and the last result. -/

namespace Sys2Proof.Machine

/-- No 8-bit register changes from `s` to `t` but those of `regs`: the first part of `Frame`. -/
def KeepsRegs (regs : List Reg8) (s t : State) : Prop :=
  ∀ r : Reg8, r ≠ .m → r ∉ regs → t.readReg8 r = s.readReg8 r

theorem KeepsRegs.refl (s : State) : KeepsRegs [] s s := fun _ _ _ => rfl

theorem KeepsRegs.trans {rs rs' : List Reg8} {s t u : State} (h : KeepsRegs rs s t)
    (h' : KeepsRegs rs' t u) : KeepsRegs (rs ++ rs') s u := by
  intro r hm hr
  rw [List.mem_append, not_or] at hr
  rw [h' r hm hr.2, h r hm hr.1]

theorem keepsRegs_writeReg8 (s : State) (dst : Reg8) (v : Byte) : KeepsRegs [dst] s (s.writeReg8 dst v) := by
  intro r hm hr
  rw [State.readReg8_writeReg8 s dst r v hm, if_neg (List.ne_of_not_mem_cons hr)]

theorem keepsRegs_setMem (s : State) (m : Memory) : KeepsRegs [] s (s.setMem m) := by
  intro r hm _
  cases r
  case m => exact absurd rfl hm
  all_goals rfl

theorem keepsRegs_setA (s : State) (v : Byte) : KeepsRegs [.a] s (s.setA v) := keepsRegs_writeReg8 s .a v

theorem keepsRegs_setBc (s : State) (v : Word) : KeepsRegs [.b, .c] s (s.setBc v) :=
  (keepsRegs_writeReg8 s .b _).trans (keepsRegs_writeReg8 (s.setB _) .c _)

theorem keepsRegs_setDe (s : State) (v : Word) : KeepsRegs [.d, .e] s (s.setDe v) :=
  (keepsRegs_writeReg8 s .d _).trans (keepsRegs_writeReg8 (s.setD _) .e _)

theorem keepsRegs_setHl (s : State) (v : Word) : KeepsRegs [.h, .l] s (s.setHl v) :=
  (keepsRegs_writeReg8 s .h _).trans (keepsRegs_writeReg8 (s.setH _) .l _)

theorem keepsRegs_writePair (s : State) (p : Pair) (v : Word) :
    KeepsRegs (pairHalves p) s (s.writePair p v) := by
  cases p with
  | bc => exact keepsRegs_setBc s v
  | de => exact keepsRegs_setDe s v
  | hl => exact keepsRegs_setHl s v
  | sp => exact KeepsRegs.refl s

theorem keepsRegs_writeStackPair (s : State) (p : StackPair) (v : Word) :
    KeepsRegs (stackPairRegs p) s (s.writeStackPair p v) := by
  cases p with
  | bc => exact keepsRegs_setBc s v
  | de => exact keepsRegs_setDe s v
  | hl => exact keepsRegs_setHl s v
  | psw => exact keepsRegs_setA s _

theorem keepsRegs_callTo (s : State) (target : Word) : KeepsRegs [] s (s.callTo target) :=
  keepsRegs_setMem (s.setSp (s.sp - 2)) _

theorem keepsRegs_callIf (s : State) (taken : Bool) (target : Word) :
    KeepsRegs [] s (s.callIf taken target) := by
  cases taken with
  | false => exact KeepsRegs.refl s
  | true => exact keepsRegs_callTo s target

theorem keepsRegs_jumpIf (s : State) (taken : Bool) (target : Word) :
    KeepsRegs [] s (s.jumpIf taken target) := by
  cases taken <;> exact KeepsRegs.refl s

theorem keepsRegs_returnIf (s : State) (taken : Bool) : KeepsRegs [] s (s.returnIf taken) := by
  cases taken <;> exact KeepsRegs.refl s

/-! ### SP, PC, the flags and the report -/

section transfers
variable (s : State) (taken : Bool) (target : Word)
@[simp] theorem State.jumpIf_sp : (s.jumpIf taken target).sp = s.sp := by cases taken <;> rfl
@[simp] theorem State.jumpIf_flags : (s.jumpIf taken target).flags = s.flags := by cases taken <;> rfl
@[simp] theorem State.jumpIf_lastResult : (s.jumpIf taken target).lastResult = s.lastResult := by
  cases taken <;> rfl
@[simp] theorem State.callIf_flags : (s.callIf taken target).flags = s.flags := by cases taken <;> rfl
@[simp] theorem State.callIf_lastResult : (s.callIf taken target).lastResult = s.lastResult := by
  cases taken <;> rfl
@[simp] theorem State.returnIf_flags : (s.returnIf taken).flags = s.flags := by cases taken <;> rfl
@[simp] theorem State.returnIf_lastResult : (s.returnIf taken).lastResult = s.lastResult := by
  cases taken <;> rfl
end transfers

section writePair
variable (s : State) (p : Pair) (v : Word)
@[simp] theorem State.writePair_pc : (s.writePair p v).pc = s.pc := by cases p <;> rfl
@[simp] theorem State.writePair_flags : (s.writePair p v).flags = s.flags := by cases p <;> rfl
@[simp] theorem State.writePair_lastResult : (s.writePair p v).lastResult = s.lastResult := by
  cases p <;> rfl
theorem State.writePair_sp (hp : p ≠ .sp) : (s.writePair p v).sp = s.sp := by
  cases p
  case sp => exact absurd rfl hp
  all_goals rfl
end writePair

section writeStackPair
variable (s : State) (p : StackPair) (v : Word)
@[simp] theorem State.writeStackPair_sp : (s.writeStackPair p v).sp = s.sp := by cases p <;> rfl
@[simp] theorem State.writeStackPair_pc : (s.writeStackPair p v).pc = s.pc := by cases p <;> rfl
@[simp] theorem State.writeStackPair_lastResult : (s.writeStackPair p v).lastResult = s.lastResult := by
  cases p <;> rfl
theorem State.writeStackPair_flags (hp : p ≠ .psw) : (s.writeStackPair p v).flags = s.flags := by
  cases p
  case psw => exact absurd rfl hp
  all_goals rfl
end writeStackPair

/-! ### The register frame of every instruction -/

/-- Each meaning is one of the operations above, and its row of `regsWritten` is what that operation writes. -/
theorem exec_keepsRegs {i : Instr} {s t : State} (he : exec i s = .next t) : KeepsRegs (regsWritten i) s t := by
  cases i <;> cases he
  case mov | mvi | inr | dcr => exact keepsRegs_writeReg8 s _ _
  case lxi | inx | dcx => exact keepsRegs_writePair s _ _
  case pop => exact keepsRegs_writeStackPair (s.setSp (s.sp + 2)) _ _
  case lhld | dad => exact keepsRegs_setHl s _
  case xthl => exact (keepsRegs_setMem s _).trans (keepsRegs_setHl _ _)
  case xchg => exact (keepsRegs_setDe s s.hl).trans (keepsRegs_setHl _ s.de)
  case stax | sta | shld => exact keepsRegs_setMem s _
  case push => exact keepsRegs_setMem (s.setSp (s.sp - 2)) _
  case call | rst => exact keepsRegs_callTo s _
  case cnz | cz | cnc | cc | cpo | cpe | cp | cm => exact keepsRegs_callIf s _ _
  case jnz | jz | jnc | jc | jpo | jpe | jp | jm => exact keepsRegs_jumpIf s _ _
  case rnz | rz | rnc | rc | rpo | rpe | rp | rm => exact keepsRegs_returnIf s _
  case sphl | cmp | cpi | stc | cmc | jmp | ret | pchl | out | nop | hlt | ei | di | rim | sim =>
    exact KeepsRegs.refl s
  all_goals exact keepsRegs_setA s _

theorem exec_sp {i : Instr} {s t : State} (he : exec i s = .next t) (hi : movesSp i = false) : t.sp = s.sp := by
  cases i <;> cases he
  case lxi p _ | inx p | dcx p => exact State.writePair_sp s p _ (bne_iff_ne.mp (congrArg not hi))
  case push | pop | sphl | call | cnz | cz | cnc | cc | cpo | cpe | cp | cm | rst | ret | rnz | rz | rnc | rc | rpo |
      rpe | rp | rm => cases hi
  case mov | mvi | inr | dcr => exact State.writeReg8_sp s _ _
  case jnz | jz | jnc | jc | jpo | jpe | jp | jm => exact State.jumpIf_sp s _ _
  all_goals rfl

theorem exec_pc {i : Instr} {s t : State} (he : exec i s = .next t) (hi : transfersControl i = false) :
    t.pc = s.pc := by
  cases i <;> cases he
  case jmp | jnz | jz | jnc | jc | jpo | jpe | jp | jm | pchl | call | cnz | cz | cnc | cc | cpo | cpe | cp | cm |
      rst | ret | rnz | rz | rnc | rc | rpo | rpe | rp | rm => cases hi
  case mov | mvi | inr | dcr => exact State.writeReg8_pc s _ _
  case lxi | inx | dcx => exact State.writePair_pc s _ _
  case pop => exact State.writeStackPair_pc (s.setSp (s.sp + 2)) _ _
  all_goals rfl

theorem exec_lastResult {i : Instr} {s t : State} (he : exec i s = .next t) (hi : i ≠ .hlt) :
    t.lastResult = s.lastResult := by
  cases i <;> cases he
  case hlt => exact absurd rfl hi
  case mov | mvi | inr | dcr => exact State.writeReg8_lastResult s _ _
  case lxi | inx | dcx => exact State.writePair_lastResult s _ _
  case pop => exact State.writeStackPair_lastResult (s.setSp (s.sp + 2)) _ _
  case jnz | jz | jnc | jc | jpo | jpe | jp | jm => exact State.jumpIf_lastResult s _ _
  case cnz | cz | cnc | cc | cpo | cpe | cp | cm => exact State.callIf_lastResult s _ _
  case rnz | rz | rnc | rc | rpo | rpe | rp | rm => exact State.returnIf_lastResult s _
  all_goals rfl

end Sys2Proof.Machine
end

section
/-! SUPPORT. The flag table of rule R30: which flags each instruction writes and which it reads. -/

namespace Sys2Proof.Machine

/-! ### Which flags an instruction writes -/

/-- The row of an instruction that writes (or reads) every flag. -/
theorem mem_fiveFlags (f : FlagName) : f ∈ [FlagName.s, .z, .ac, .p, .cy] := by
  cases f <;> decide

theorem Flags.eq_of_get {f g : Flags} (h : ∀ n, f.get n = g.get n) : f = g := by
  cases f
  cases g
  rw [Flags.mk.injEq]
  exact ⟨h .s, h .z, h .ac, h .p, h .cy⟩

theorem eq_cy_of_not_mem {f : FlagName} (h : f ∉ [FlagName.s, .z, .ac, .p]) : f = .cy := by
  revert h
  cases f <;> decide

/-- Writing CY leaves the other flags. -/
theorem Flags.get_setCy (fl : Flags) (b : Bool) {f : FlagName} (h : f ∉ [FlagName.cy]) :
    ({ fl with cy := b } : Flags).get f = fl.get f := by
  cases f
  case cy => exact absurd (List.mem_singleton_self _) h
  all_goals rfl

/-- A flag whose cell of the table of rule R30 is blank keeps its value. -/
theorem exec_flag_of_not_written {i : Instr} {s t : State} (he : exec i s = .next t) {f : FlagName}
    (hf : f ∉ flagsWritten i) : t.flags.get f = s.flags.get f := by
  cases i <;> cases he
  case add | adc | sub | sbb | adi | aci | sui | sbi | daa | ana | xra | ora | cmp | ani | xri | ori | cpi =>
    exact absurd (mem_fiveFlags f) hf
  case inr | dcr =>
    cases eq_cy_of_not_mem hf
    rfl
  case dad | rlc | rrc | ral | rar | stc | cmc => exact Flags.get_setCy s.flags _ hf
  case pop p =>
    cases p
    case psw => exact absurd (mem_fiveFlags f) hf
    all_goals rfl
  case mov | mvi => rw [State.writeReg8_flags]
  case lxi | inx | dcx => rw [State.writePair_flags]
  case jnz | jz | jnc | jc | jpo | jpe | jp | jm => rw [State.jumpIf_flags]
  case cnz | cz | cnc | cc | cpo | cpe | cp | cm => rw [State.callIf_flags]
  case rnz | rz | rnc | rc | rpo | rpe | rp | rm => rw [State.returnIf_flags]
  all_goals rfl

/-! ### Which flags an instruction reads -/

/-- `t'` is `t` but for the flags, and has the flags of `t` in `written`. -/
def SameButFlags (written : List FlagName) (t t' : State) : Prop :=
  t'.setFlags t.flags = t ∧ ∀ f ∈ written, t'.flags.get f = t.flags.get f

theorem SameButFlags.refl (written : List FlagName) (t : State) : SameButFlags written t t :=
  ⟨rfl, fun _ _ => rfl⟩

theorem sameButFlags_setFlags (t : State) (fl : Flags) : SameButFlags [] t (t.setFlags fl) :=
  ⟨rfl, fun _ h => absurd h List.not_mem_nil⟩

theorem SameButFlags.of_cy {t t' : State} (h : t'.setFlags t.flags = t) (hcy : t'.flags.cy = t.flags.cy) :
    SameButFlags [.cy] t t' := by
  refine ⟨h, fun f hf => ?_⟩
  cases List.mem_singleton.mp hf
  exact hcy

/-- The flag a condition tests (rule R201). -/
def condFlag : Cond → FlagName
  | .nz | .z => .z
  | .nc | .c => .cy
  | .po | .pe => .p
  | .p | .m => .s

theorem holds_congr {f g : Flags} {cond : Cond} (h : ∀ n ∈ [condFlag cond], f.get n = g.get n) :
    f.holds cond = g.holds cond := by
  have hc := h _ (List.mem_singleton_self _)
  cases cond
  case nz | nc | po | p => exact congrArg not hc
  all_goals exact hc

/-- DAA reads AC and CY alone (rule R155). -/
theorem daaCore_congr (a : Byte) {f g : Flags} (hac : f.ac = g.ac) (hcy : f.cy = g.cy) :
    daaCore a f = daaCore a g := by
  cases f
  cases g
  cases hac
  cases hcy
  rfl

/-! An operation that neither reads nor writes the flags commutes with a change of them. -/

section setFlags
variable (s : State) (fl : Flags)

theorem State.writeReg8_setFlags (dst : Reg8) (v : Byte) :
    (s.setFlags fl).writeReg8 dst v = (s.writeReg8 dst v).setFlags fl := by cases dst <;> rfl

theorem State.writePair_setFlags (p : Pair) (v : Word) :
    (s.setFlags fl).writePair p v = (s.writePair p v).setFlags fl := by cases p <;> rfl

end setFlags

section conditional
variable {s : State} {fl : Flags} {cond : Cond} (h : ∀ n ∈ [condFlag cond], fl.get n = s.flags.get n)
include h

theorem sameButFlags_jumpIf {target : Word} : SameButFlags [] (s.jumpIf (s.flags.holds cond) target)
    ((s.setFlags fl).jumpIf (fl.holds cond) target) := by
  rw [holds_congr h]
  cases s.flags.holds cond <;> exact sameButFlags_setFlags _ fl

theorem sameButFlags_callIf {target : Word} : SameButFlags [] (s.callIf (s.flags.holds cond) target)
    ((s.setFlags fl).callIf (fl.holds cond) target) := by
  rw [holds_congr h]
  cases s.flags.holds cond <;> exact sameButFlags_setFlags _ fl

theorem sameButFlags_returnIf : SameButFlags [] (s.returnIf (s.flags.holds cond))
    ((s.setFlags fl).returnIf (fl.holds cond)) := by
  rw [holds_congr h]
  cases s.flags.holds cond <;> exact sameButFlags_setFlags _ fl

end conditional

/-- INR and DCR: S, Z, AC and P are those of the result, whatever CY was. -/
theorem sameButFlags_keepCy (t : State) {f g : Flags} (h : { g with cy := f.cy } = f) :
    SameButFlags [.s, .z, .ac, .p] (t.setFlags f) (t.setFlags g) := by
  cases f
  cases g
  cases h
  refine ⟨rfl, fun n hn => ?_⟩
  cases n
  case cy => exact absurd hn (by decide)
  all_goals rfl

/-- With the same values of the flags it reads, an instruction differs in no result but the flags it keeps. Either the
cores of the ALU get the same arguments, or the state operation commutes with the change of the flags. -/
theorem exec_setFlags {i : Instr} {s t t' : State} {fl : Flags}
    (hfl : ∀ f ∈ flagsRead i, fl.get f = s.flags.get f) (he : exec i s = .next t)
    (he' : exec i (s.setFlags fl) = .next t') : SameButFlags (flagsWritten i) t t' := by
  cases i <;> cases he <;> cases he'
  case add | sub | adi | sui | ana | xra | ora | cmp | ani | xri | ori | cpi => exact SameButFlags.refl _ _
  case dad | rlc | rrc | stc => exact SameButFlags.of_cy rfl rfl
  case mov | mvi =>
    rw [State.writeReg8_setFlags]
    exact sameButFlags_setFlags _ _
  case lxi | inx | dcx =>
    rw [State.writePair_setFlags]
    exact sameButFlags_setFlags _ _
  case jnz | jz | jnc | jc | jpo | jpe | jp | jm =>
    refine sameButFlags_jumpIf ?_
    exact hfl
  case cnz | cz | cnc | cc | cpo | cpe | cp | cm =>
    refine sameButFlags_callIf ?_
    exact hfl
  case rnz | rz | rnc | rc | rpo | rpe | rp | rm => exact sameButFlags_returnIf hfl
  case adc | aci | sbb | sbi =>
    have hcy : fl.cy = s.flags.cy := hfl .cy (List.mem_singleton_self _)
    rw [State.setFlags_flags, hcy]
    exact SameButFlags.refl _ _
  case ral | rar | cmc =>
    have hcy : fl.cy = s.flags.cy := hfl .cy (List.mem_singleton_self _)
    obtain ⟨_, _, _, _, _⟩ := fl
    cases hcy
    exact SameButFlags.of_cy rfl rfl
  case daa =>
    have hac : fl.ac = s.flags.ac := hfl .ac List.mem_cons_self
    have hcy : fl.cy = s.flags.cy := hfl .cy (List.mem_cons_of_mem _ List.mem_cons_self)
    rw [State.setFlags_flags, daaCore_congr _ hac hcy]
    exact SameButFlags.refl _ _
  case inr | dcr =>
    rw [State.writeReg8_setFlags]
    exact sameButFlags_keepCy (s.writeReg8 _ _) rfl
  case push p =>
    cases p
    case psw =>
      rw [Flags.eq_of_get fun f => hfl f (mem_fiveFlags f)]
      exact SameButFlags.refl _ _
    all_goals exact sameButFlags_setFlags _ _
  case pop p =>
    cases p
    case psw => exact SameButFlags.refl _ _
    all_goals exact sameButFlags_setFlags _ _
  all_goals exact sameButFlags_setFlags _ _

end Sys2Proof.Machine
end

section
/-! SUPPORT. The bytes of PUSH and POP: the flag byte, the two cells of a push, the two bytes of a 16-bit read. -/

namespace Sys2Proof.Machine

theorem toNat_packFlags (f : Flags) : (packFlags f).toNat =
    128 * f.s.toNat + 64 * f.z.toNat + 16 * f.ac.toNat + 4 * f.p.toNat + f.cy.toNat := by
  obtain ⟨s, z, ac, p, cy⟩ := f
  revert s z ac p cy
  decide

theorem encoded_push (p : StackPair) : Encoded (.push p) [0xC5 + 16 * p.code] := by
  cases p <;> exact ⟨by decide, fun _ => rfl⟩

theorem encoded_pop (p : StackPair) : Encoded (.pop p) [0xC1 + 16 * p.code] := by
  cases p <;> exact ⟨by decide, fun _ => rfl⟩

theorem State.push16_read_low {s : State} (h : s.wf = true) (v : Word) :
    (s.push16 v).mem.read (s.sp - 2).toNat = loByte v := by
  rw [State.push16_read h, if_neg (Nat.ne_of_lt (Nat.lt_succ_self _)), if_pos rfl]

theorem State.push16_read_high {s : State} (h : s.wf = true) (v : Word) :
    (s.push16 v).mem.read ((s.sp - 2).toNat + 1) = hiByte v := by
  rw [State.push16_read h, if_pos rfl]

theorem frame_push16 {s : State} (h : s.wf = true) (v : Word) :
    Frame [] [(s.sp - 2).toNat, (s.sp - 2).toNat + 1] [] s (s.push16 v) :=
  ⟨keepsRegs_setMem (s.setSp (s.sp - 2)) _, fun _ hk => State.push16_read_other h v hk, fun _ _ => rfl, rfl⟩

theorem loByte_memRead16 (s : State) (addr : Word) : loByte (s.memRead16 addr) = s.mem.read addr.toNat :=
  loByte_joinBytes _ _

theorem hiByte_memRead16 (s : State) (addr : Word) :
    hiByte (s.memRead16 addr) = s.mem.read (addr.toNat + 1) :=
  hiByte_joinBytes _ _

@[simp] theorem State.writeStackPair_mem (s : State) (p : StackPair) (v : Word) :
    (s.writeStackPair p v).mem = s.mem := by cases p <;> rfl
@[simp] theorem State.writeStackPair_io (s : State) (p : StackPair) (v : Word) :
    (s.writeStackPair p v).io = s.io := by cases p <;> rfl

theorem frame_writeStackPair (s : State) (p : StackPair) (v : Word) :
    Frame (stackPairRegs p) [] [] s (s.writeStackPair p v) :=
  ⟨keepsRegs_writeStackPair s p v, fun _ _ => by rw [State.writeStackPair_mem],
    fun _ _ => by rw [State.writeStackPair_io], State.writeStackPair_lastResult s p v⟩

end Sys2Proof.Machine
end

section
/-! SUPPORT. Operand codes and pair halves in the terms of the statements. -/

namespace Sys2Proof.Machine

theorem halves_joinBytes (hi lo : Byte) : Halves hi lo (joinBytes hi lo) := (toNat_joinBytes hi lo).symm

theorem reg8OfCode_code (r : Reg8) : reg8OfCode (r.code.setWidth 3) = r ∧ r.code.toNat < 8 := by
  cases r <;> decide

theorem pairOfCode_code (p : Pair) : pairOfCode (p.code.setWidth 2) = p ∧ p.code.toNat < 4 := by
  cases p <;> decide

theorem stackPairOfCode_code (p : StackPair) :
    stackPairOfCode (p.code.setWidth 2) = p ∧ p.code.toNat < 4 := by
  cases p <;> decide

end Sys2Proof.Machine
end

section
/-! SUPPORT. The statements of the family 10_state.md, settled. -/

namespace Sys2Proof.Machine

/-- Settles O15: blank cells by `exec_flag_of_not_written`, readers by `exec_setFlags`, fixed cells by computing. -/
theorem flagTable : Obligations.FlagTable := by
  refine ⟨fun i s t he f hf => exec_flag_of_not_written he hf, ?_, ?_, ?_, fun i s t t' fl => exec_setFlags⟩
  · rintro s t r v (he | he) <;> cases he <;> exact ⟨rfl, rfl⟩
  · rintro s t r v (he | he | he | he) <;> cases he <;> exact ⟨rfl, rfl⟩
  · intro s t he
    cases he
    rfl

/-- Settles O16, one frame lemma for each of its four parts. -/
theorem onlyListedRegistersChange : Obligations.OnlyListedRegistersChange :=
  fun _ _ _ he => ⟨exec_keepsRegs he, exec_sp he, exec_pc he, exec_lastResult he⟩

/-- Settles O30, from the cells a push writes. -/
theorem pushStoresTheWord : Obligations.PushStoresTheWord := by
  intro p s h
  refine ⟨encoded_push p, s.push16 (s.readStackPair p), rfl, rfl, rfl, rfl, ?_, ?_, ?_, ?_, frame_push16 h _⟩
  all_goals
    rintro rfl
    rw [State.push16_read_low h, State.push16_read_high h]
  · exact ⟨loByte_joinBytes s.b s.c, hiByte_joinBytes s.b s.c⟩
  · exact ⟨loByte_joinBytes s.d s.e, hiByte_joinBytes s.d s.e⟩
  · exact ⟨loByte_joinBytes s.h s.l, hiByte_joinBytes s.h s.l⟩
  · rw [State.readStackPair, State.psw, loByte_joinBytes, hiByte_joinBytes]
    exact ⟨rfl, toNat_packFlags s.flags⟩

/-- Settles O31, from the two bytes of a 16-bit read. -/
theorem popLoadsTheWord : Obligations.PopLoadsTheWord := by
  intro p s
  refine ⟨encoded_pop p, (s.setSp (s.sp + 2)).writeStackPair p (s.memRead16 s.sp), rfl,
    State.writeStackPair_sp _ p _, State.writeStackPair_pc _ p _, ?_, ?_, ?_, ?_,
    State.writeStackPair_flags _ p _, frame_writeStackPair (s.setSp (s.sp + 2)) p _⟩
  all_goals
    rintro rfl
    rw [← loByte_memRead16, ← hiByte_memRead16]
  · exact ⟨rfl, rfl⟩
  · exact ⟨rfl, rfl⟩
  · exact ⟨rfl, rfl⟩
  · exact ⟨rfl, rfl, rfl, rfl, rfl, rfl⟩

/-- Settles O5, operand by operand. -/
theorem operandCodes : Obligations.OperandCodes :=
  ⟨rfl, rfl, rfl, reg8OfCode_code, pairOfCode_code, stackPairOfCode_code, fun s =>
    ⟨rfl, halves_joinBytes s.b s.c, halves_joinBytes s.d s.e, halves_joinBytes s.h s.l, rfl, rfl⟩⟩

/-- Settles O6: the step's own fetch is the decoder's reading of the same bytes. -/
theorem stepRunsDecodedInstruction : Obligations.StepRunsDecodedInstruction := by
  intro s i rest hpc h
  obtain ⟨row, hrow, hfetch⟩ := fetchOperands_of_decode hpc h
  rw [step, execute_row hpc hrow, hfetch, StepEnd.ofOutcome_outcome]

/-- Settles O10; the HLT step is O6 at the byte 0x76. -/
theorem haltingIsAResult : Obligations.HaltingIsAResult := by
  refine ⟨fun s hpc => ?_, fun s hpc hop => ?_, encoded_hlt, fun _ => rfl, execute_setLastResult⟩
  · have hs : step s = .next (s.setLastResult (.halted .boundary)) := by
      rw [step, execute_boundary hpc, State.halt]
    exact ⟨hs, by rw [step, execute_setLastResult]; exact hs⟩
  · have hdec := encoded_hlt.2 [s.mem.read (s.pc.toNat + 1), s.mem.read (s.pc.toNat + 2)]
    rw [← hop] at hdec
    rw [stepRunsDecodedInstruction s .hlt _ hpc hdec]
    rfl

/-- Settles O14, register by register and flag by flag. -/
theorem resetState : Obligations.ResetState := by
  refine ⟨rfl, rfl, fun r => ?_, fun f => ?_, fun k => ⟨rfl, rfl⟩, fun cfg mem io => ⟨rfl, rfl, rfl⟩⟩
  · cases r <;> rfl
  · cases f <;> rfl

end Sys2Proof.Machine
end

section
/-! SUPPORT. Words in memory: the two cells of a word, and a 16-bit read of what a push stored. -/

namespace Sys2Proof.Machine

/-- A word lies at an index when the two cells hold its halves, low byte first. -/
theorem holdsWord_iff {s : State} {index : Nat} {v : Word} :
    HoldsWord s index v ↔ s.mem.read index = loByte v ∧ s.mem.read (index + 1) = hiByte v := by
  rw [HoldsWord, ← toNat_loByte, ← toNat_hiByte, BitVec.toNat_inj, BitVec.toNat_inj]

theorem holdsWord_memRead16 (s : State) (addr : Word) : HoldsWord s addr.toNat (s.memRead16 addr) :=
  holdsWord_iff.mpr ⟨(loByte_memRead16 s addr).symm, (hiByte_memRead16 s addr).symm⟩

theorem holdsWord_memWrite16 {s : State} (h : s.wf = true) (addr v : Word) :
    HoldsWord (s.memWrite16 addr v) addr.toNat v := by
  rw [holdsWord_iff, State.memWrite16_read h, State.memWrite16_read h, if_neg (Nat.ne_of_lt (Nat.lt_succ_self _)),
    if_pos rfl, if_pos rfl]
  exact ⟨rfl, rfl⟩

theorem holdsWord_push16 {s : State} (h : s.wf = true) (v : Word) :
    HoldsWord (s.push16 v) (s.sp - 2).toNat v :=
  holdsWord_memWrite16 (s := s.setSp (s.sp - 2)) h _ v

/-- A pop reads the word that the push before it stored, wherever SP is. -/
theorem State.memRead16_push16 {s : State} (h : s.wf = true) (v : Word) :
    (s.push16 v).memRead16 (s.push16 v).sp = v :=
  State.memRead16_memWrite16 (s := s.setSp (s.sp - 2)) h _ v

/-- A pop moves SP back to where the push before it found it: only memory differs. -/
theorem State.push16_setSp (s : State) (v : Word) :
    (s.push16 v).setSp ((s.push16 v).sp + 2) = s.setMem (s.push16 v).mem := by
  rw [State.push16_sp, BitVec.sub_add_cancel]
  rfl

end Sys2Proof.Machine
end

section
/-! SUPPORT. Which cells of memory each state operation and each instruction leaves (rules R57, R59, R64, R69). -/

namespace Sys2Proof.Machine

/-! ### The state operations -/

theorem State.memWrite8_read_other {s : State} (h : s.wf = true) {addr : Word} (v : Byte) {k : Nat}
    (hk : k ∉ [addr.toNat]) : (s.memWrite8 addr v).mem.read k = s.mem.read k := by
  rw [State.memWrite8_read h, if_neg (List.ne_of_not_mem_cons hk)]

theorem State.memWrite16_read_other {s : State} (h : s.wf = true) {addr : Word} (v : Word) {k : Nat}
    (hk : k ∉ wordCells addr) : (s.memWrite16 addr v).mem.read k = s.mem.read k := by
  simp only [wordCells, List.mem_cons, List.not_mem_nil, or_false, not_or] at hk
  rw [State.memWrite16_read h, if_neg hk.2, if_neg hk.1]

theorem State.writeReg8_read_other {s : State} (h : s.wf = true) {dst : Reg8} (v : Byte) {k : Nat}
    (hk : k ∉ reg8Cells dst s) : (s.writeReg8 dst v).mem.read k = s.mem.read k := by
  cases dst
  case m => exact State.memWrite8_read_other h v hk
  all_goals rfl

theorem State.callIf_read_other {s : State} (h : s.wf = true) {taken : Bool} (target : Word) {k : Nat}
    (hk : k ∉ if taken then pushCells s else []) : (s.callIf taken target).mem.read k = s.mem.read k := by
  cases taken with
  | false => rfl
  | true => exact State.push16_read_other h s.pc hk

section keepMem
variable (s : State) (p : Pair) (v target : Word) (taken : Bool)
@[simp] theorem State.writePair_mem : (s.writePair p v).mem = s.mem := by cases p <;> rfl
@[simp] theorem State.jumpIf_mem : (s.jumpIf taken target).mem = s.mem := by cases taken <;> rfl
@[simp] theorem State.returnIf_mem : (s.returnIf taken).mem = s.mem := by cases taken <;> rfl
end keepMem

/-! ### The memory frame of every instruction -/

/-- Each meaning is one of the operations above, and its row of `storedCells` is what that operation writes. -/
theorem exec_mem_read_other {i : Instr} {s t : State} (h : s.wf = true) (he : exec i s = .next t) {k : Nat}
    (hk : k ∉ storedCells i s) : t.mem.read k = s.mem.read k := by
  cases i <;> cases he
  case mov | mvi | inr | dcr => exact State.writeReg8_read_other h _ hk
  case stax | sta => exact State.memWrite8_read_other h _ hk
  case shld | xthl => exact State.memWrite16_read_other h _ hk
  case push | call | rst => exact State.push16_read_other h _ hk
  case cnz | cz | cnc | cc | cpo | cpe | cp | cm => exact State.callIf_read_other h _ hk
  case lxi | inx | dcx => rw [State.writePair_mem]
  case pop => exact congrArg (Memory.read · k) (State.writeStackPair_mem (s.setSp (s.sp + 2)) _ _)
  case jnz | jz | jnc | jc | jpo | jpe | jp | jm => rw [State.jumpIf_mem]
  case rnz | rz | rnc | rc | rpo | rpe | rp | rm => rw [State.returnIf_mem]
  all_goals rfl

/-! ### The shapes of the cells stored to -/

/-- What an instruction stores to is no cell, one cell inside the 64 KiB, or the two cells of SHLD, of XTHL or of a
push. -/
theorem storedCells_cases (i : Instr) (s : State) :
    storedCells i s = [] ∨ (∃ addr : Word, storedCells i s = [addr.toNat]) ∨
      (∃ addr, i = .shld addr ∧ storedCells i s = wordCells addr) ∨
      (i = .xthl ∧ storedCells i s = wordCells s.sp) ∨ storedCells i s = pushCells s := by
  cases i
  case mov dst _ | mvi dst _ | inr dst | dcr dst =>
    by_cases hm : dst = .m
    · exact .inr (.inl ⟨s.hl, if_pos hm⟩)
    · exact .inl (if_neg hm)
  case stax p => exact .inr (.inl ⟨s.readIndexPair p, rfl⟩)
  case sta addr => exact .inr (.inl ⟨addr, rfl⟩)
  case shld addr => exact .inr (.inr (.inl ⟨addr, rfl, rfl⟩))
  case xthl => exact .inr (.inr (.inr (.inl ⟨rfl, rfl⟩)))
  case push | call | rst => exact .inr (.inr (.inr (.inr rfl)))
  case cnz | cz | cnc | cc | cpo | cpe | cp | cm =>
    simp only [storedCells]
    split
    · exact .inr (.inr (.inr (.inr rfl)))
    · exact .inl rfl
  all_goals exact .inl rfl

/-- The memory guard byte is a cell of a word at 0xFFFF alone (rules R58, R59; decision D4). -/
theorem guard_mem_wordCells {addr : Word} (h : 0x10000 ∈ wordCells addr) : addr = 0xFFFF := by
  simp only [wordCells, List.mem_cons, List.not_mem_nil, or_false] at h
  bv_omega

theorem guard_mem_pushCells {s : State} (h : 0x10000 ∈ pushCells s) : s.sp = 0x0001 := by
  have hsp := guard_mem_wordCells h
  bv_omega

/-- An instruction that stores to the memory guard byte is SHLD 0xFFFF, XTHL with SP at 0xFFFF, or a push with SP at
1. -/
theorem guard_mem_storedCells {i : Instr} {s : State} (h : 0x10000 ∈ storedCells i s) :
    i = .shld 0xFFFF ∨ (i = .xthl ∧ s.sp = 0xFFFF) ∨ (storedCells i s = pushCells s ∧ s.sp = 0x0001) := by
  rcases storedCells_cases i s with hc | ⟨addr, hc⟩ | ⟨addr, rfl, hc⟩ | ⟨rfl, hc⟩ | hc
  all_goals rw [hc] at h
  · exact absurd h List.not_mem_nil
  · have := List.mem_singleton.mp h
    have := addr.isLt
    omega
  · exact .inl (congrArg Instr.shld (guard_mem_wordCells h))
  · exact .inr (.inl ⟨rfl, guard_mem_wordCells h⟩)
  · exact .inr (.inr ⟨hc, guard_mem_pushCells h⟩)

end Sys2Proof.Machine
end

section
/-! SUPPORT. Which instructions read or write IO and memory (rules R51, R62): the others commute with a change of the
array. -/

namespace Sys2Proof.Machine

/-! ### State operations that leave IO alone -/

section setIo
variable (s : State) (m : Memory)

theorem State.readReg8_setIo (r : Reg8) : (s.setIo m).readReg8 r = s.readReg8 r := by cases r <;> rfl
theorem State.writeReg8_setIo (r : Reg8) (v : Byte) :
    (s.setIo m).writeReg8 r v = (s.writeReg8 r v).setIo m := by cases r <;> rfl
theorem State.readPair_setIo (p : Pair) : (s.setIo m).readPair p = s.readPair p := by cases p <;> rfl
theorem State.writePair_setIo (p : Pair) (v : Word) :
    (s.setIo m).writePair p v = (s.writePair p v).setIo m := by cases p <;> rfl
theorem State.readIndexPair_setIo (p : IndexPair) : (s.setIo m).readIndexPair p = s.readIndexPair p := by
  cases p <;> rfl
theorem State.readStackPair_setIo (p : StackPair) : (s.setIo m).readStackPair p = s.readStackPair p := by
  cases p <;> rfl
theorem State.writeStackPair_setIo (p : StackPair) (v : Word) :
    (s.setIo m).writeStackPair p v = (s.writeStackPair p v).setIo m := by cases p <;> rfl
theorem State.jumpIf_setIo (taken : Bool) (target : Word) :
    (s.setIo m).jumpIf taken target = (s.jumpIf taken target).setIo m := by cases taken <;> rfl
theorem State.callIf_setIo (taken : Bool) (target : Word) :
    (s.setIo m).callIf taken target = (s.callIf taken target).setIo m := by cases taken <;> rfl
theorem State.returnIf_setIo (taken : Bool) : (s.setIo m).returnIf taken = (s.returnIf taken).setIo m := by
  cases taken <;> rfl

end setIo

/-- An instruction other than IN and OUT neither reads nor writes IO. -/
theorem exec_setIo {i : Instr} {s t t' : State} {m : Memory} (hi : reachesIo i = false)
    (he : exec i s = .next t) (he' : exec i (s.setIo m) = .next t') : t' = t.setIo m := by
  cases i <;> cases he <;> cases he'
  case in_ | out => cases hi
  case mov => rw [State.readReg8_setIo, State.writeReg8_setIo]
  case mvi => rw [State.writeReg8_setIo]
  case inr | dcr =>
    rw [State.readReg8_setIo, State.writeReg8_setIo]
    rfl
  case add | adc | sub | sbb | ana | xra | ora | cmp =>
    rw [State.readReg8_setIo]
    rfl
  case lxi => rw [State.writePair_setIo]
  case inx | dcx => rw [State.readPair_setIo, State.writePair_setIo]
  case dad =>
    rw [State.readPair_setIo]
    rfl
  case stax | ldax =>
    rw [State.readIndexPair_setIo]
    rfl
  case push =>
    rw [State.readStackPair_setIo]
    rfl
  case pop => exact State.writeStackPair_setIo (s.setSp (s.sp + 2)) m _ _
  case jnz | jz | jnc | jc | jpo | jpe | jp | jm => exact State.jumpIf_setIo s m _ _
  case cnz | cz | cnc | cc | cpo | cpe | cp | cm => exact State.callIf_setIo s m _ _
  case rnz | rz | rnc | rc | rpo | rpe | rp | rm => exact State.returnIf_setIo s m _
  all_goals rfl

/-- An instruction that reaches IO is IN or OUT. -/
theorem reachesIo_cases (i : Instr) :
    reachesIo i = false ∨ (∃ port, i = .in_ port) ∨ ∃ port, i = .out port := by
  cases i
  case in_ port => exact .inr (.inl ⟨port, rfl⟩)
  case out port => exact .inr (.inr ⟨port, rfl⟩)
  all_goals exact .inl rfl

/-- The IO array is left as it was by an instruction that does not reach it: put it back before the instruction and
the result is the same. -/
theorem exec_io {i : Instr} {s t : State} (hi : reachesIo i = false) (he : exec i s = .next t) : t.io = s.io := by
  have ht : t = t.setIo s.io := exec_setIo hi he he
  rw [ht, State.setIo_io]

theorem exec_io_read_other {i : Instr} {s t : State} (h : s.wf = true) (he : exec i s = .next t) {k : Nat}
    (hk : k ∉ storedPorts i) : t.io.read k = s.io.read k := by
  rcases reachesIo_cases i with hi | ⟨port, rfl⟩ | ⟨port, rfl⟩
  · rw [exec_io hi he]
  · cases he
    rfl
  · cases he
    rw [State.ioWrite_read h, if_neg (List.ne_of_not_mem_cons hk)]

/-! ### State operations that leave memory alone -/

section setMem
variable (s : State) (m : Memory)

theorem State.readReg8_setMem {r : Reg8} (hr : r ≠ .m) : (s.setMem m).readReg8 r = s.readReg8 r :=
  keepsRegs_setMem s m r hr List.not_mem_nil
theorem State.writeReg8_setMem {r : Reg8} (hr : r ≠ .m) (v : Byte) :
    (s.setMem m).writeReg8 r v = (s.writeReg8 r v).setMem m := by
  cases r
  case m => exact absurd rfl hr
  all_goals rfl
theorem State.readPair_setMem (p : Pair) : (s.setMem m).readPair p = s.readPair p := by cases p <;> rfl
theorem State.writePair_setMem (p : Pair) (v : Word) :
    (s.setMem m).writePair p v = (s.writePair p v).setMem m := by cases p <;> rfl
theorem State.writeStackPair_setMem (p : StackPair) (v : Word) :
    (s.setMem m).writeStackPair p v = (s.writeStackPair p v).setMem m := by cases p <;> rfl
theorem State.jumpIf_setMem (taken : Bool) (target : Word) :
    (s.setMem m).jumpIf taken target = (s.jumpIf taken target).setMem m := by cases taken <;> rfl

end setMem

/-- An instruction outside the list of rule R51 neither reads nor writes memory. -/
theorem exec_setMem {i : Instr} {s t t' : State} {m : Memory} (hi : reachesMemory i = false)
    (he : exec i s = .next t) (he' : exec i (s.setMem m) = .next t') : t' = t.setMem m := by
  cases i <;> cases he <;> cases he'
  case stax | ldax | sta | lda | shld | lhld | push | pop | xthl | rst | call | cnz | cz | cnc | cc | cpo | cpe | cp |
      cm | ret | rnz | rz | rnc | rc | rpo | rpe | rp | rm => cases hi
  case mov =>
    obtain ⟨hdst, hsrc⟩ := Bool.or_eq_false_iff.mp hi
    rw [State.readReg8_setMem s m (ne_of_beq_false hsrc), State.writeReg8_setMem s m (ne_of_beq_false hdst)]
  case mvi => rw [State.writeReg8_setMem s m (ne_of_beq_false hi)]
  case inr | dcr =>
    rw [State.readReg8_setMem s m (ne_of_beq_false hi), State.writeReg8_setMem s m (ne_of_beq_false hi)]
    rfl
  case add | adc | sub | sbb | ana | xra | ora | cmp =>
    rw [State.readReg8_setMem s m (ne_of_beq_false hi)]
    rfl
  case lxi => rw [State.writePair_setMem]
  case inx | dcx => rw [State.readPair_setMem, State.writePair_setMem]
  case dad =>
    rw [State.readPair_setMem]
    rfl
  case jnz | jz | jnc | jc | jpo | jpe | jp | jm => exact State.jumpIf_setMem s m _ _
  all_goals rfl

/-! ### The IO guard byte -/

/-- The port of OUT is eight bits wide. -/
theorem guard_not_mem_storedPorts (i : Instr) : 0x100 ∉ storedPorts i := by
  cases i
  case out port => exact List.not_mem_cons_of_ne_of_not_mem (Nat.ne_of_gt port.isLt) List.not_mem_nil
  all_goals exact List.not_mem_nil

/-- A change of the IO guard byte before an instruction is the same change after it: no port is the guard byte (rule
R62). -/
theorem exec_setIo_guard {i : Instr} {s t t' : State} {v : Byte} (h : s.wf = true) (he : exec i s = .next t)
    (he' : exec i (s.setIo (s.io.write 0x100 v)) = .next t') : t' = t.setIo (t.io.write 0x100 v) := by
  obtain ⟨_, hio⟩ := State.wf_iff.mp h
  rcases reachesIo_cases i with hi | ⟨port, rfl⟩ | ⟨port, rfl⟩
  · rw [exec_setIo hi he he', exec_io hi he]
  · cases he
    cases he'
    rw [State.ioRead, State.setIo_io, Memory.read_write_other hio (Nat.ne_of_lt port.isLt)]
    rfl
  · cases he
    cases he'
    have hp := port.isLt
    have hc := Memory.write_comm hio (i := 0x100) (j := port.toNat) (by decide) (by unfold ioCells; omega)
      (Nat.ne_of_gt hp) v s.a
    rw [State.ioWrite, State.setIo_io, State.setIo_a, hc]
    rfl

end Sys2Proof.Machine
end

section
/-! SUPPORT. The bytes and the effect of the calls and returns (rules R64, R211, R220). -/

namespace Sys2Proof.Machine

/-- The bytes of a family of instructions over a word, from its encoding and the decoding of its three bytes. -/
theorem encodedWord_of {build : Word → Instr} {op : Byte} (henc : ∀ v, encode (build v) = op :: wordBytes v)
    (hdec : ∀ lo hi rest, decode (op :: lo :: hi :: rest) = .ok (build (joinBytes hi lo)) rest) (v : Word) :
    EncodedWord (build v) op v := by
  intro hi lo hv
  have hj : joinBytes hi lo = v := BitVec.eq_of_toNat_eq ((toNat_joinBytes hi lo).trans hv)
  subst hj
  refine ⟨?_, hdec lo hi⟩
  rw [henc, wordBytes, loByte_joinBytes, hiByte_joinBytes]

theorem callsTo_of_callTo {i : Instr} {s : State} {target : Word} (h : s.wf = true)
    (he : exec i s = .next (s.callTo target)) : CallsTo i s target :=
  ⟨s.callTo target, he, rfl, rfl, holdsWord_push16 h s.pc, rfl, frame_push16 h s.pc⟩

theorem callsWhen_of_callIf {i : Instr} {s : State} {taken : Bool} {target : Word} (h : s.wf = true)
    (he : exec i s = .next (s.callIf taken target)) : CallsWhen i s taken target := by
  cases taken with
  | false => exact he
  | true => exact callsTo_of_callTo h he

theorem returnsTo_of_returnFrom {i : Instr} {s : State} (he : exec i s = .next s.returnFrom) : ReturnsTo i s :=
  ⟨s.returnFrom, he, holdsWord_memRead16 s s.sp, rfl, rfl, KeepsRegs.refl s, fun _ _ => rfl, fun _ _ => rfl, rfl⟩

theorem returnsWhen_of_returnIf {i : Instr} {s : State} {taken : Bool}
    (he : exec i s = .next (s.returnIf taken)) : ReturnsWhen i s taken := by
  cases taken with
  | false => exact he
  | true => exact returnsTo_of_returnFrom he

end Sys2Proof.Machine
end

section
/-! SUPPORT. The host bus: what each operation answers inside an array and beyond it (rules R55, R60, R61). -/

namespace Sys2Proof.Machine

/-! ### The array of a space -/

theorem State.array_wf {s : State} (h : s.wf = true) (space : Space) : (s.array space).wf space.cells = true := by
  obtain ⟨hm, hio⟩ := State.wf_iff.mp h
  cases space with
  | mem => exact hm
  | io => exact hio

@[simp] theorem State.setArray_array (s : State) (space : Space) (m : Memory) :
    (s.setArray space m).array space = m := by
  cases space <;> rfl

@[simp] theorem State.setArray_setArray (s : State) (space : Space) (m n : Memory) :
    (s.setArray space m).setArray space n = s.setArray space n := by
  cases space <;> rfl

/-! ### Byte access -/

section bus
variable (s : State) {space : Space} {k : Nat}

theorem State.busGet8_inside (hk : k < space.cells) : s.busGet8 space k = .ok ((s.array space).read k) := by
  rw [State.busGet8_eq, if_pos hk]

theorem State.busGet8_beyond (hk : space.cells ≤ k) : s.busGet8 space k = .error (.busFault k) := by
  rw [State.busGet8_eq, if_neg (Nat.not_lt.mpr hk)]

theorem State.busSet8_inside (hk : k < space.cells) (v : Byte) :
    s.busSet8 space k v = .ok (s.setArray space ((s.array space).write k v)) := by
  rw [State.busSet8, busCheck, if_pos hk]
  rfl

theorem State.busSet8_beyond (hk : space.cells ≤ k) (v : Byte) : s.busSet8 space k v = .error (.busFault k) := by
  rw [State.busSet8, busCheck, if_neg (Nat.not_lt.mpr hk)]
  rfl

theorem State.busGet8_busSet8 {s : State} (h : s.wf = true) (hk : k < space.cells) (v : Byte) :
    ∃ t, s.busSet8 space k v = .ok t ∧ t.busGet8 space k = .ok v := by
  refine ⟨_, State.busSet8_inside s hk v, ?_⟩
  rw [State.busGet8_inside _ hk, State.setArray_array, Memory.read_write_same (State.array_wf h space)]

/-! ### Word access: both byte orders are the same two byte accesses -/

/-- Read two neighbouring cells in rising order and combine their bytes. -/
def State.busGetTwo (combine : Byte → Byte → Word) (space : Space) (k : Nat) : Except Fault Word := do
  let x ← s.busGet8 space k
  let y ← s.busGet8 space (k + 1)
  return combine x y

/-- Write two neighbouring cells in rising order. -/
def State.busSetTwo (space : Space) (k : Nat) (x y : Byte) : Except Fault State := do
  let s₁ ← s.busSet8 space k x
  s₁.busSet8 space (k + 1) y

theorem State.busGet16_eq : s.busGet16 space k = s.busGetTwo joinBytes space k := rfl
theorem State.busGet16Reverse_eq : s.busGet16Reverse space k = s.busGetTwo (flip joinBytes) space k := rfl
theorem State.busSet16_eq (v : Word) : s.busSet16 space k v = s.busSetTwo space k (hiByte v) (loByte v) := rfl
theorem State.busSet16Reverse_eq (v : Word) :
    s.busSet16Reverse space k v = s.busSetTwo space k (loByte v) (hiByte v) := rfl

theorem State.busGetTwo_inside (combine : Byte → Byte → Word) (hk : k + 1 < space.cells) :
    s.busGetTwo combine space k =
      .ok (combine ((s.array space).read k) ((s.array space).read (k + 1))) := by
  rw [State.busGetTwo, State.busGet8_inside s (Nat.lt_of_succ_lt hk), State.busGet8_inside s hk]
  rfl

theorem State.busSetTwo_inside (hk : k + 1 < space.cells) (x y : Byte) :
    s.busSetTwo space k x y =
      .ok (s.setArray space (((s.array space).write k x).write (k + 1) y)) := by
  rw [State.busSetTwo, State.busSet8_inside s (Nat.lt_of_succ_lt hk)]
  refine (State.busSet8_inside _ hk y).trans ?_
  rw [State.setArray_array, State.setArray_setArray]

/-- Two bytes written are read back in the same order. -/
theorem State.busGetTwo_busSetTwo {s : State} (h : s.wf = true) (hk : k + 1 < space.cells) (x y : Byte) :
    ∃ t, s.busSetTwo space k x y = .ok t ∧ ∀ combine, t.busGetTwo combine space k = .ok (combine x y) := by
  refine ⟨_, State.busSetTwo_inside s hk x y, fun combine => ?_⟩
  have hx := Memory.write_wf (State.array_wf h space) (Nat.lt_of_succ_lt hk) x
  rw [State.busGetTwo_inside _ combine hk, State.setArray_array, Memory.read_write_same hx,
    Memory.read_write_other hx (Nat.ne_of_lt (Nat.lt_succ_self k)), Memory.read_write_same (State.array_wf h space)]

/-- An access whose second cell lies beyond the array is refused at its first cell beyond it (log entry 19). -/
theorem State.busTwo_beyond (hk : space.cells ≤ k + 1) :
    ∃ j, space.cells ≤ j ∧ (∀ combine, s.busGetTwo combine space k = .error (.busFault j)) ∧
      ∀ x y, s.busSetTwo space k x y = .error (.busFault j) := by
  by_cases hlt : k < space.cells
  · refine ⟨k + 1, hk, fun combine => ?_, fun x y => ?_⟩
    · rw [State.busGetTwo, State.busGet8_inside s hlt, State.busGet8_beyond s hk]
      rfl
    · rw [State.busSetTwo, State.busSet8_inside s hlt]
      exact State.busSet8_beyond _ hk y
  · have hle := Nat.not_lt.mp hlt
    refine ⟨k, hle, fun combine => ?_, fun x y => ?_⟩
    · rw [State.busGetTwo, State.busGet8_beyond s hle]
      rfl
    · rw [State.busSetTwo, State.busSet8_beyond s hle]
      rfl

end bus

end Sys2Proof.Machine
end

section
/-! SUPPORT. The statements of the family 20_memory.md, settled. -/

namespace Sys2Proof.Machine

/-- Settles O12: a step halts, faults, or runs an instruction, and `exec_wf` covers every instruction. -/
theorem everyStepKeepsCanonicalState : Obligations.EveryStepKeepsCanonicalState := by
  intro s t h hs
  obtain ⟨_, hstep⟩ | ⟨_, _, hstep⟩ | ⟨_, i, pc, hstep⟩ := step_cases s
  all_goals rw [hstep] at hs
  · cases hs
    exact h
  · cases hs
  · exact exec_wf (s := (s.setLastResult .cont).setPc pc) h hs

/-- Settles O8: of the three things a step can do, only the undefined opcode stops it. -/
theorem onlyIllegalOpcodeStops : Obligations.OnlyIllegalOpcodeStops := by
  intro s
  obtain ⟨_, hstep⟩ | ⟨hpc, hop, hstep⟩ | ⟨_, i, pc, hstep⟩ := step_cases s
  · rw [hstep]
    exact ⟨nofun, nofun⟩
  · rw [hstep]
    refine ⟨nofun, fun f hf => ⟨hpc, hop, ?_⟩⟩
    cases hf
    rfl
  · obtain ⟨t, ht⟩ := exec_next i ((s.setLastResult .cont).setPc pc)
    rw [hstep, ht]
    exact ⟨nofun, nofun⟩

/-- Settles O17, one frame lemma for each array. -/
theorem onlyComputedCellsChange : Obligations.OnlyComputedCellsChange :=
  fun _ _ _ h he => ⟨fun _ hk => exec_mem_read_other h he hk, fun _ hk => exec_io_read_other h he hk⟩

/-- Settles O18: the port of OUT is below the IO guard byte, and a memory guard byte that changed is a cell the
instruction stores to. -/
theorem guardBytes : Obligations.GuardBytes := by
  intro i s t h he
  refine ⟨?_, fun v => ?_, ?_⟩
  · exact exec_io_read_other h he (guard_not_mem_storedPorts i)
  · obtain ⟨t', he'⟩ := exec_next i (s.setIo (s.io.write 0x100 v))
    rw [he', exec_setIo_guard h he he']
  · by_cases hk : 0x10000 ∈ storedCells i s
    · exact .inr (guard_mem_storedCells hk)
    · exact .inl (exec_mem_read_other h he hk)

/-- Settles O19: the instructions outside the two lists commute with a change of the array. -/
theorem spacesReachedOnlyByTheirInstructions : Obligations.SpacesReachedOnlyByTheirInstructions := by
  intro i s t m he
  refine ⟨fun hi => ?_, fun hi => ?_⟩
  · obtain ⟨t', he'⟩ := exec_next i (s.setIo m)
    rw [he', exec_setIo hi he he']
  · obtain ⟨t', he'⟩ := exec_next i (s.setMem m)
    rw [he', exec_setMem hi he he']

/-- Settles O21, from the cells a 16-bit write stores to. -/
theorem wordAccessLittleEndian : Obligations.WordAccessLittleEndian := by
  refine ⟨fun s addr => ?_, fun s addr v h => ?_, rfl⟩
  · rw [State.memRead16, toNat_joinBytes, Nat.add_comm]
  · exact ⟨holdsWord_memWrite16 h addr v, State.memRead16_memWrite16 h addr v,
      fun k hk => State.memWrite16_read_other h v hk, rfl, State.memWrite16_wf h addr v⟩

/-- Settles O22: both byte orders are the same two byte accesses. -/
theorem busRefusesBeyondTheArray : Obligations.BusRefusesBeyondTheArray := by
  refine ⟨rfl, rfl, fun s space k v w h => ⟨fun hk => ?_, fun hk => ?_, fun hk => ?_, fun hk => ?_⟩⟩
  · exact ⟨State.busGet8_inside s hk, State.busGet8_busSet8 h hk v⟩
  · exact ⟨State.busGet8_beyond s hk, State.busSet8_beyond s hk v⟩
  · obtain ⟨t, ht, hget⟩ := State.busGetTwo_busSetTwo h hk (hiByte w) (loByte w)
    obtain ⟨u, hu, hgetRev⟩ := State.busGetTwo_busSetTwo h hk (loByte w) (hiByte w)
    have hw := joinBytes_hiByte_loByte w
    refine ⟨State.busGetTwo_inside s joinBytes hk, State.busGetTwo_inside s (flip joinBytes) hk, ⟨t, ht, ?_⟩,
      ⟨u, hu, ?_⟩⟩
    · rw [State.busGet16_eq, hget, hw]
    · rw [State.busGet16Reverse_eq, hgetRev, flip, hw]
  · obtain ⟨j, hj, hget, hset⟩ := State.busTwo_beyond s hk
    exact ⟨j, hj, hget joinBytes, hget (flip joinBytes), hset (hiByte w) (loByte w), hset (loByte w) (hiByte w)⟩

/-- Settles O32: the word popped is the word pushed, so what POP loads was there before. -/
theorem pushThenPopRestores : Obligations.PushThenPopRestores := by
  intro p s h
  have hpop : exec (.pop p) (s.push16 (s.readStackPair p)) =
      .next (s.setMem (s.push16 (s.readStackPair p)).mem) := by
    rw [exec, execPop, State.pop16, State.memRead16_push16 h, State.push16_setSp]
    simp only [State.writeStackPair_setMem, State.writeStackPair_readStackPair]
  exact ⟨_, _, rfl, hpop, rfl, fun k hk => State.push16_read_other h _ hk⟩

/-- Settles O46, one push for all nine. -/
theorem calls : Obligations.Calls := by
  intro s a h
  refine ⟨⟨?_, callsTo_of_callTo h rfl⟩, ⟨?_, callsWhen_of_callIf h rfl⟩, ⟨?_, callsWhen_of_callIf h rfl⟩,
    ⟨?_, callsWhen_of_callIf h rfl⟩, ⟨?_, callsWhen_of_callIf h rfl⟩, ⟨?_, callsWhen_of_callIf h rfl⟩,
    ⟨?_, callsWhen_of_callIf h rfl⟩, ⟨?_, callsWhen_of_callIf h rfl⟩, ⟨?_, callsWhen_of_callIf h rfl⟩⟩
  all_goals exact encodedWord_of (fun _ => rfl) (fun _ _ _ => rfl) a

/-- Settles O47, one pop for all nine. -/
theorem returns : Obligations.Returns := by
  intro s
  refine ⟨⟨?_, returnsTo_of_returnFrom rfl⟩, ⟨?_, returnsWhen_of_returnIf rfl⟩, ⟨?_, returnsWhen_of_returnIf rfl⟩,
    ⟨?_, returnsWhen_of_returnIf rfl⟩, ⟨?_, returnsWhen_of_returnIf rfl⟩, ⟨?_, returnsWhen_of_returnIf rfl⟩,
    ⟨?_, returnsWhen_of_returnIf rfl⟩, ⟨?_, returnsWhen_of_returnIf rfl⟩, ⟨?_, returnsWhen_of_returnIf rfl⟩⟩
  all_goals exact ⟨rfl, fun _ => rfl⟩

/-- Settles O50, from the one cell of the port. -/
theorem inAndOut : Obligations.InAndOut := by
  refine ⟨fun port s => ⟨⟨rfl, fun _ => rfl⟩, s.setA (s.ioRead port), rfl, rfl, ⟨rfl, rfl, rfl⟩, ?_⟩,
    fun port s h => ⟨⟨rfl, fun _ => rfl⟩, s.ioWrite port s.a, rfl, ?_, ⟨rfl, rfl, rfl⟩, ?_⟩⟩
  · exact ⟨keepsRegs_setA s _, fun _ _ => rfl, fun _ _ => rfl, rfl⟩
  · rw [State.ioWrite_read h, if_pos rfl]
  · exact ⟨KeepsRegs.refl s, fun _ _ => rfl, fun k hk => exec_io_read_other (i := .out port) h rfl hk, rfl⟩

/-- Settles O20, from the one cell of the address. -/
theorem byteReadAfterWrite : Obligations.ByteReadAfterWrite := by
  intro s addr v h
  refine ⟨?_, fun k hk => ?_, rfl, State.memWrite8_wf h addr v⟩
  · rw [State.memRead8, State.memWrite8_read h, if_pos rfl]
  · rw [State.memWrite8_read h, if_neg hk]

end Sys2Proof.Machine
end

section
/-! SUPPORT. The opcode map against the encoder (rules R81, R86, R98 to R100): what decodes is an opcode byte of one row
of the map and the operand bytes of its format, and the encoder writes the same bytes. -/

namespace Sys2Proof.Machine

/-! ### The rows -/

/-- The bytes after the opcode in an instruction of a format (rule R81). -/
def operandBytesOf (format : Format) (d8 : Byte) (imm : Word) : List Byte :=
  match format with
  | .f1 => []
  | .f2 => [d8]
  | .f3 => wordBytes imm

/-- The instruction a row builds holds the operands of the row's format and no others, and its opcode byte and
well-formedness do not depend on them. -/
structure RowBuilds (row : OpcodeRow) (op d8 : Byte) (imm : Word) : Prop where
  operandBytes : (row.build op d8 imm).operandBytes = operandBytesOf row.format d8 imm
  opcode : (row.build op d8 imm).opcode = (row.build op 0 0).opcode
  wf : (row.build op d8 imm).wf = (row.build op 0 0).wf
  ignores :
    match row.format with
    | .f1 => row.build op 0 0 = row.build op d8 imm
    | .f2 => row.build op d8 0 = row.build op d8 imm
    | .f3 => row.build op 0 imm = row.build op d8 imm

theorem opcodeRows_builds : ∀ row ∈ opcodeRows, ∀ op d8 imm, RowBuilds row op d8 imm := by
  simp only [opcodeRows, dataTransferRows, stackRows, arithmeticRows, logicalRows, jumpRows, callRows, returnRows,
    ioControlRows, List.cons_append, List.nil_append, List.forall_mem_cons, List.not_mem_nil, false_imp_iff,
    implies_true, and_true]
  and_intros
  all_goals exact fun _ _ _ => ⟨rfl, rfl, rfl, rfl⟩

/-- An opcode byte is that of every instruction its row builds, and HLT stands before `MOV M,M` (rules R98, R111). -/
theorem findRow_build_opcode : ∀ op : Byte, ∀ row ∈ findRow op,
    (row.build op 0 0).wf = true ∧ (row.build op 0 0).opcode = op := by
  decide +kernel

section row
variable {op : Byte} {row : OpcodeRow} (h : findRow op = some row) (d8 : Byte) (imm : Word)
include h

theorem wf_build : (row.build op d8 imm).wf = true :=
  (opcodeRows_builds row (List.mem_of_find?_eq_some h) op d8 imm).wf.trans (findRow_build_opcode op row h).1

theorem encode_build : encode (row.build op d8 imm) = op :: operandBytesOf row.format d8 imm := by
  have hb := opcodeRows_builds row (List.mem_of_find?_eq_some h) op d8 imm
  rw [encode, hb.operandBytes, hb.opcode, (findRow_build_opcode op row h).2]

/-- The bytes of a row decode to what the row builds. -/
theorem decode_row (rest : List Byte) :
    decode (op :: (operandBytesOf row.format d8 imm ++ rest)) = .ok (row.build op d8 imm) rest := by
  have hb := (opcodeRows_builds row (List.mem_of_find?_eq_some h) op d8 imm).ignores
  unfold decode
  cases hf : row.format
  all_goals
    simp only [hf] at hb
    simp only [h, hf, operandBytesOf, wordBytes, List.nil_append, List.cons_append, joinBytes_hiByte_loByte, hb]

end row

/-! ### What decodes -/

/-- Whatever decodes is the bytes of a row and the rest. -/
theorem decode_ok {bytes rest : List Byte} {i : Instr} (h : decode bytes = .ok i rest) :
    ∃ op row d8 imm, findRow op = some row ∧ i = row.build op d8 imm ∧
      bytes = op :: (operandBytesOf row.format d8 imm ++ rest) := by
  unfold decode at h
  split at h
  · cases h
  next op tail =>
  split at h
  · cases h
  next row hrow =>
  split at h
  · next hf =>
    cases h
    exact ⟨op, row, 0, 0, hrow, rfl, by rw [hf]; rfl⟩
  · next d8 _ hf =>
    cases h
    exact ⟨op, row, d8, 0, hrow, rfl, by rw [hf]; rfl⟩
  · next lo hi _ hf =>
    cases h
    refine ⟨op, row, 0, joinBytes hi lo, hrow, rfl, ?_⟩
    rw [hf, operandBytesOf, wordBytes, loByte_joinBytes, hiByte_joinBytes]
    rfl
  · cases h
  · cases h

/-! ### What encodes -/

/-- The restart number fills the field of the opcode byte that the row of RST reads (rule R82). -/
theorem exists_row_rst : ∀ n : BitVec 3,
    ∃ row ∈ findRow (Instr.rst n).opcode, row.build (Instr.rst n).opcode 0 0 = .rst n := by
  decide

/-- Every well-formed instruction is built by the row of its opcode byte, from its own operands. -/
theorem exists_row {i : Instr} (h : i.wf = true) :
    ∃ row d8 imm, findRow i.opcode = some row ∧ row.build i.opcode d8 imm = i := by
  cases i <;> dsimp only [Instr.opcode]
  case mov dst src =>
    cases dst <;> cases src
    case m.m => cases h
    all_goals exact ⟨_, 0, 0, rfl, rfl⟩
  case mvi dst v => cases dst <;> exact ⟨_, v, 0, rfl, rfl⟩
  case lxi p v => cases p <;> exact ⟨_, 0, v, rfl, rfl⟩
  case stax p | ldax p => cases p <;> exact ⟨_, 0, 0, rfl, rfl⟩
  case push p | pop p => cases p <;> exact ⟨_, 0, 0, rfl, rfl⟩
  case inx p | dcx p | dad p => cases p <;> exact ⟨_, 0, 0, rfl, rfl⟩
  case add r | adc r | sub r | sbb r | ana r | xra r | ora r | cmp r | inr r | dcr r =>
    cases r <;> exact ⟨_, 0, 0, rfl, rfl⟩
  case rst n =>
    obtain ⟨row, hrow, hbuild⟩ := exists_row_rst n
    exact ⟨row, 0, 0, hrow, hbuild⟩
  case adi v | aci v | sui v | sbi v | ani v | xri v | ori v | cpi v | in_ v | out v =>
    exact ⟨_, v, 0, rfl, rfl⟩
  case sta v | lda v | shld v | lhld v | jmp v | jnz v | jz v | jnc v | jc v | jpo v | jpe v | jp v | jm v
      | call v | cnz v | cz v | cnc v | cc v | cpo v | cpe v | cp v | cm v =>
    exact ⟨_, 0, v, rfl, rfl⟩
  all_goals exact ⟨_, 0, 0, rfl, rfl⟩

theorem decode_encode {i : Instr} (h : i.wf = true) (rest : List Byte) : decode (encode i ++ rest) = .ok i rest := by
  obtain ⟨row, d8, imm, hrow, hbuild⟩ := exists_row h
  have henc := encode_build hrow d8 imm
  have hdec := decode_row hrow d8 imm rest
  rw [hbuild] at henc hdec
  rw [henc]
  exact hdec

theorem encoded_encode {i : Instr} (h : i.wf = true) : Encoded i (encode i) := ⟨rfl, decode_encode h⟩

/-! ### Lengths -/

/-- The lengths of rule R84 are those of the formats. -/
theorem findRow_length : ∀ op : Byte, ∀ row ∈ findRow op,
    row.format.length = if op ∈ twoByteOpcodes then 2 else if op ∈ threeByteOpcodes then 3 else 1 := by
  decide +kernel

/-- A defined opcode byte decodes, whatever two bytes follow it, to an instruction of its row's length. -/
theorem decode_defined {op : Byte} (h : op ∉ undefinedOpcodes) (x y : Byte) (rest : List Byte) :
    ∃ i, (encode i).length = (if op ∈ twoByteOpcodes then 2 else if op ∈ threeByteOpcodes then 3 else 1) ∧
      decode (op :: x :: y :: rest) = .ok i ((op :: x :: y :: rest).drop (encode i).length) := by
  obtain ⟨row, hrow⟩ := Option.ne_none_iff_exists'.mp (mt (findRow_none_iff op).mp h)
  have hlen := opcodeRows_length row (List.mem_of_find?_eq_some hrow) op x (joinBytes y x)
  have hdec := decode_row hrow x (joinBytes y x)
  refine ⟨row.build op x (joinBytes y x), hlen.trans (findRow_length op row hrow), ?_⟩
  rw [hlen]
  cases hf : row.format with
  | f1 => simpa [hf, operandBytesOf, Format.length] using hdec (x :: y :: rest)
  | f2 => simpa [hf, operandBytesOf, Format.length] using hdec (y :: rest)
  | f3 => simpa [hf, operandBytesOf, wordBytes, Format.length] using hdec rest

end Sys2Proof.Machine
end

section
/-! SUPPORT. Pass 1 of the encoder over one statement (rules R290 to R300): what the table says of each name the
statements are spelled with, one rule for each operand, and the whole statement. -/

namespace Sys2Proof.Machine

/-! ### Literals -/

theorem hexDigit_hexChar : ∀ n < 16, hexDigit (hexChar n) = some n := by decide

theorem readHex_hexChar {n : Nat} (hn : n < 16) (value : Nat) (rest : Text) :
    readHex value (hexChar n :: rest) = readHex (value * 16 + n) rest := by
  rw [readHex, hexDigit_hexChar n hn]

theorem hexVal_of_readHex {c : Char} {rest : Text} {n : Nat} (h : readHex 0 (c :: rest) = some n) :
    hexVal ('0' :: 'x' :: c :: rest) = some n := by
  have hp : prefixedValue ('0' :: 'x' :: c :: rest) = some n := h
  rw [hexVal, hp]

theorem hexVal_hexText8 (v : Byte) : hexVal (hexText8 v) = some v.toNat := by
  have hv := v.isLt
  refine hexVal_of_readHex ?_
  rw [readHex_hexChar (by omega), readHex_hexChar (by omega), readHex]
  congr 1
  omega

theorem hexVal_hexText16 (v : Word) : hexVal (hexText16 v) = some v.toNat := by
  have hv := v.isLt
  refine hexVal_of_readHex ?_
  rw [readHex_hexChar (by omega), readHex_hexChar (by omega), readHex_hexChar (by omega),
    readHex_hexChar (by omega), readHex]
  congr 1
  omega

theorem hexValUpTo_of_le {x : Text} {n bound : Nat} (hx : hexVal x = some n) (hn : n ≤ bound) :
    hexValUpTo bound x = some n := by
  rw [hexValUpTo, hx]
  exact if_pos hn

/-! ### Operand names -/

theorem lookupText_regText (r : Reg8) : lookupText registerTable (lowercase (regText r)) = some r.code := by
  cases r <;> rfl

theorem lookupText_pairText (p : Pair) : lookupText wordPairs (lowercase (pairText p)) = some p.code := by
  cases p <;> rfl

theorem lookupText_indexPairText (p : IndexPair) :
    lookupText indexPairs (lowercase (indexPairText p)) = some p.code := by
  cases p <;> rfl

theorem lookupText_stackPairText (p : StackPair) :
    lookupText stackPairs (lowercase (stackPairText p)) = some p.code := by
  cases p <;> rfl

/-! ### One operand -/

/-- The encoder inside the first statement of its source, with an opcode accumulator and immediate bytes. -/
def midStatement (e : MnemonicEntry) (queue : List ExpectedState) (fresh : Bool) (acc : Byte × List Byte) :
    EncoderState :=
  { EncoderState.initial config with queue := queue, cur := some e, accOp := acc.1, accImm := acc.2, fresh := fresh }

/-- What an operand token does to the opcode accumulator and the immediate bytes in the state that expects it (rules
R293 to R299). -/
inductive ReadsOperand (e : MnemonicEntry) : ExpectedState → Token → Byte × List Byte → Byte × List Byte → Prop
  | comma {op imm} : ReadsOperand e .comma .comma (op, imm) (op, imm)
  | destination {r op imm} :
      ReadsOperand e .destinationRegister (.name (regText r)) (op, imm) (op ||| r.code <<< 3, imm)
  | source {r op imm} (notMM : (e.name == ['m', 'o', 'v'] && op ||| r.code == 0x76) = false) :
      ReadsOperand e .sourceRegister (.name (regText r)) (op, imm) (op ||| r.code, imm)
  | pair {x code op imm} (hx : lookupText e.pairs (lowercase x) = some code) :
      ReadsOperand e .registerPair (.name x) (op, imm) (op ||| code <<< 4, imm)
  | immediate8 {v op imm} : ReadsOperand e .immediate8 (literal8 v) (op, imm) (op, [v])
  | immediate16 {v op imm} : ReadsOperand e .immediate16 (literal16 v) (op, imm) (op, wordBytes v)
  | restart {n : BitVec 3} {op imm} :
      ReadsOperand e .rstImmediate (literal8 (n.setWidth 8)) (op, imm) (op ||| n.setWidth 8 <<< 3, imm)

/-- On a token that is no colon a step is the rule of the state in front, `fresh` or not (rules R290, R302). -/
theorem passOneStep_of_ne_colon {s : EncoderState} {st : ExpectedState} {q : List ExpectedState} {t : PosToken}
    (hq : s.queue = st :: q) (ht : t.tok ≠ .colon) :
    passOneStep s t = onState st { s with fresh := false, queue := q } t := by
  rw [passOneStep, beq_eq_false_iff_ne.mpr ht, Bool.and_false, if_neg Bool.false_ne_true, hq]

section operand
variable {e : MnemonicEntry} {st : ExpectedState} {tok : Token} {acc acc' : Byte × List Byte}

theorem ReadsOperand.onState (h : ReadsOperand e st tok acc acc') (q : List ExpectedState) {t : PosToken}
    (ht : t.tok = tok) :
    onState st (midStatement e q false acc) t = .ok (midStatement e q false acc') := by
  cases h with
  | comma => simp only [Machine.onState, onComma, ht]
  | destination =>
    simp only [Machine.onState, onDestination, ht, lookupText_regText]
    rfl
  | source notMM =>
    simp only [Machine.onState, onSource, ht, lookupText_regText]
    exact if_neg (Bool.eq_false_iff.mp notMM)
  | pair hx =>
    simp only [Machine.onState, onPair, ht, EncoderState.acceptedPairs, midStatement, hx]
  | @immediate8 v =>
    have hv := hexValUpTo_of_le (bound := 0xFF) (hexVal_hexText8 v) (Nat.le_of_lt_succ v.isLt)
    simp only [Machine.onState, onImmediate8, ht, literal8, hv, BitVec.ofNat_toNat, BitVec.setWidth_eq]
    rfl
  | @immediate16 v =>
    have hv := hexValUpTo_of_le (bound := 0xFFFF) (hexVal_hexText16 v) (Nat.le_of_lt_succ v.isLt)
    simp only [Machine.onState, onImmediate16, ht, literal16, hv, BitVec.ofNat_toNat, BitVec.setWidth_eq]
    rfl
  | @restart n =>
    have hn : (n.setWidth 8).toNat ≤ 7 := by
      rw [BitVec.toNat_setWidth]
      omega
    simp only [Machine.onState, onRst, ht, literal8, hexValUpTo_of_le (hexVal_hexText8 _) hn, BitVec.ofNat_toNat,
      BitVec.setWidth_eq]
    rfl

theorem ReadsOperand.ne_colon (h : ReadsOperand e st tok acc acc') : tok ≠ .colon := by
  cases h <;> exact nofun

theorem ReadsOperand.passOneStep (h : ReadsOperand e st tok acc acc') (q : List ExpectedState) (fresh : Bool)
    {t : PosToken} (ht : t.tok = tok) :
    passOneStep (midStatement e (st :: q) fresh acc) t = .ok (midStatement e q false acc') :=
  (passOneStep_of_ne_colon rfl (ht ▸ h.ne_colon)).trans (h.onState q ht)

theorem ReadsOperand.length_imm (h : ReadsOperand e st tok acc acc') (himm : acc.2.length ≤ 2) :
    acc'.2.length ≤ 2 := by
  cases h with
  | immediate8 => exact Nat.le_succ 1
  | immediate16 => exact Nat.le_refl 2
  | _ => exact himm

end operand

/-! ### One statement -/

/-- Operand tokens read in the order of the entry's operand states (rule R280). -/
inductive ReadsOperands (e : MnemonicEntry) :
    List ExpectedState → List Token → Byte × List Byte → Byte × List Byte → Prop
  | done {acc} : ReadsOperands e [] [] acc acc
  | step {st q tok toks acc acc' acc''} (head : ReadsOperand e st tok acc acc')
      (tail : ReadsOperands e q toks acc' acc'') : ReadsOperands e (st :: q) (tok :: toks) acc acc''

/-- The encoder after the first statement of its source. -/
def afterStatement (acc : Byte × List Byte) : EncoderState :=
  { EncoderState.initial config with
    accOp := acc.1, accImm := acc.2, buf := acc.1 :: acc.2
    addr := config.codeOrigin.toNat + (1 + acc.2.length) }

theorem passOneTokens_cons {s s' : EncoderState} {t : PosToken} (h : passOneStep s t = .ok s')
    (rest : List PosToken) : passOneTokens config s (t :: rest) = passOneTokens config s' rest := by
  have hw : passOneStepWith config s t = .ok s' := h
  rw [passOneTokens, hw]

theorem passOneTokens_of_readsOperands {e : MnemonicEntry} {q : List ExpectedState} {ts : List Token}
    {acc acc' : Byte × List Byte} (h : ReadsOperands e q ts acc acc') {toks : List PosToken} (fresh : Bool)
    (htoks : toks.map PosToken.tok = ts ++ [.newLine]) (himm : acc.2.length ≤ 2) :
    passOneTokens config (midStatement e (q ++ [.append]) fresh acc) toks = .ok (afterStatement acc') := by
  induction h generalizing toks fresh with
  | @done acc =>
    obtain ⟨t, rfl, ht⟩ := List.map_eq_singleton_iff.mp htoks
    have hfits : ¬ config.codeOrigin.toNat + (1 + acc.2.length) > addressLimit := by
      show ¬ 0xC000 + (1 + acc.2.length) > 0x10000
      omega
    have hstep : passOneStep (midStatement e [.append] fresh acc) t = .ok (afterStatement acc) := by
      rw [passOneStep_of_ne_colon rfl (by rw [ht]; nofun), onState, onAppend, ht]
      exact if_neg hfits
    exact passOneTokens_cons hstep []
  | step head tail ih =>
    obtain ⟨t, rest, rfl, ht, hrest⟩ := List.map_eq_cons_iff.mp htoks
    rw [List.cons_append, passOneTokens_cons (head.passOneStep _ fresh ht)]
    exact ih false hrest (head.length_imm himm)

/-- A statement whose mnemonic the table has, and whose operands its entry accepts, assembles to the bytes read. -/
theorem assemble_statement {e : MnemonicEntry} {x : Text} {ts : List Token} {toks : List PosToken} {op : Byte}
    {imm : List Byte} (htoks : toks.map PosToken.tok = .name x :: ts ++ [.newLine]) (hx : findMnemonic x = some e)
    (hops : ReadsOperands e e.states ts (e.base, []) (op, imm)) : assemble toks = .ok (op :: imm) := by
  obtain ⟨t, rest, rfl, ht, hrest⟩ := List.map_eq_cons_iff.mp htoks
  have hstep : passOneStep (EncoderState.initial config) t =
      .ok (midStatement e (e.states ++ [.append]) true (e.base, [])) := by
    rw [passOneStep_of_ne_colon rfl (by rw [ht]; nofun), onState, onSearch, ht]
    simp only [hx]
    rfl
  have hrun := passOneTokens_of_readsOperands hops true hrest (Nat.zero_le 2)
  rw [assemble, assembleWith, passOne, passOneTokens_cons hstep, hrun]
  rfl

/-- Each statement's mnemonic has an entry that reads the statement's operands, and what is read is the encoding. -/
theorem assemble_statementOf {i : Instr} (hwf : i.wf = true) {toks : List PosToken}
    (h : toks.map PosToken.tok = statementOf i ++ [.newLine]) : assemble toks = .ok (encode i) := by
  cases i
  case mov dst src =>
    refine assemble_statement h rfl (.step .destination (.step .comma (.step (.source ?_) .done)))
    cases dst <;> cases src
    case m.m => cases hwf
    all_goals rfl
  case mvi => exact assemble_statement h rfl (.step .destination (.step .comma (.step .immediate8 .done)))
  case lxi p _ =>
    exact assemble_statement h rfl
      (.step (.pair (lookupText_pairText p)) (.step .comma (.step .immediate16 .done)))
  case stax p | ldax p => exact assemble_statement h rfl (.step (.pair (lookupText_indexPairText p)) .done)
  case inx p | dcx p | dad p => exact assemble_statement h rfl (.step (.pair (lookupText_pairText p)) .done)
  case push p | pop p => exact assemble_statement h rfl (.step (.pair (lookupText_stackPairText p)) .done)
  case inr | dcr => exact assemble_statement h rfl (.step .destination .done)
  case add | adc | sub | sbb | ana | xra | ora | cmp => exact assemble_statement h rfl (.step (.source rfl) .done)
  case adi | aci | sui | sbi | ani | xri | ori | cpi | in_ | out =>
    exact assemble_statement h rfl (.step .immediate8 .done)
  case sta | lda | shld | lhld | jmp | jnz | jz | jnc | jc | jpo | jpe | jp | jm | call | cnz | cz | cnc | cc | cpo
      | cpe | cp | cm =>
    exact assemble_statement h rfl (.step .immediate16 .done)
  case rst => exact assemble_statement h rfl (.step .restart .done)
  all_goals exact assemble_statement h rfl .done

end Sys2Proof.Machine
end

section
/-! SUPPORT. The statements of the family 30_encoding.md, settled. -/

namespace Sys2Proof.Machine

/-- Settles O2, from the row that builds the instruction. -/
theorem decodeInvertsEncode : Obligations.DecodeInvertsEncode := fun _ rest h => decode_encode h rest

/-- Settles O53, from the operands that the entry of the mnemonic reads. -/
theorem assembledInstructionIsItsEncoding : Obligations.AssembledInstructionIsItsEncoding :=
  fun _ _ hwf h => assemble_statementOf hwf h

/-- Settles O3, from the row that was found. -/
theorem encodeInvertsDecode : Obligations.EncodeInvertsDecode := by
  intro bytes rest i h
  obtain ⟨op, row, d8, imm, hrow, rfl, rfl⟩ := decode_ok h
  refine ⟨wf_build hrow d8 imm, ?_⟩
  rw [encode_build hrow d8 imm, List.cons_append]

/-- Settles O4, from the format of the row. -/
theorem lengthFollowsOpcode : Obligations.LengthFollowsOpcode := by
  refine ⟨fun op x y rest => ⟨fun hop => ?_, fun hop => decode_defined hop x y rest⟩, fun s hpc hop => ?_, ?_⟩
  · rw [decode, (findRow_none_iff op).mpr hop]
  · rw [step, execute_undefined hpc hop]
    exact ⟨rfl, rfl⟩
  · decide

/-- Settles O1, by running the decoder on each word. -/
theorem sampleWordsDecode : Obligations.SampleWordsDecode := by
  unfold Obligations.SampleWordsDecode
  decide

/-- Settles O7, from the one step that an undefined opcode makes. -/
theorem illegalOpcodeFault : Obligations.IllegalOpcodeFault := by
  intro s hpc hop
  rw [step, execute_undefined hpc hop]
  exact ⟨rfl, rfl, rfl⟩

/-- Settles O51: the bytes are those of O2, and each meaning is the state it is given. -/
theorem inertInstructions : Obligations.InertInstructions := fun _ =>
  ⟨⟨encoded_encode rfl, rfl⟩, ⟨encoded_encode rfl, rfl⟩, ⟨encoded_encode rfl, rfl⟩, ⟨encoded_encode rfl, rfl⟩,
    ⟨encoded_encode rfl, rfl⟩⟩

end Sys2Proof.Machine
end

section
/-! SUPPORT. Data transfer: the frame of each write a data transfer makes (rules R23 to R25, R57, R59), what a write of
an operand leaves in it, and the bytes of the instructions whose operands stand in the opcode. -/

namespace Sys2Proof.Machine

/-! ### The frame of a write -/

theorem frame_writeReg8 {s : State} (h : s.wf = true) (dst : Reg8) (v : Byte) :
    Frame [dst] (reg8Cells dst s) [] s (s.writeReg8 dst v) :=
  ⟨keepsRegs_writeReg8 s dst v, fun _ hk => State.writeReg8_read_other h v hk,
    fun _ _ => by rw [State.writeReg8_io], State.writeReg8_lastResult s dst v⟩

theorem keepsSpPcFlags_writeReg8 (s : State) (dst : Reg8) (v : Byte) : KeepsSpPcFlags s (s.writeReg8 dst v) :=
  ⟨State.writeReg8_sp s dst v, State.writeReg8_pc s dst v, State.writeReg8_flags s dst v⟩

theorem frame_setA (s : State) (v : Byte) : Frame [.a] [] [] s (s.setA v) :=
  ⟨keepsRegs_setA s v, fun _ _ => rfl, fun _ _ => rfl, rfl⟩

theorem frame_setHl (s : State) (v : Word) : Frame [.h, .l] [] [] s (s.setHl v) :=
  ⟨keepsRegs_setHl s v, fun _ _ => rfl, fun _ _ => rfl, rfl⟩

theorem frame_writePair (s : State) (p : Pair) (v : Word) : Frame (pairHalves p) [] [] s (s.writePair p v) :=
  ⟨keepsRegs_writePair s p v, fun _ _ => by rw [State.writePair_mem], fun _ _ => by cases p <;> rfl,
    State.writePair_lastResult s p v⟩

theorem frame_memWrite8 {s : State} (h : s.wf = true) (addr : Word) (v : Byte) :
    Frame [] [addr.toNat] [] s (s.memWrite8 addr v) :=
  ⟨keepsRegs_setMem s _, fun _ hk => State.memWrite8_read_other h v hk, fun _ _ => rfl, rfl⟩

theorem frame_memWrite16 {s : State} (h : s.wf = true) (addr v : Word) :
    Frame [] [addr.toNat, addr.toNat + 1] [] s (s.memWrite16 addr v) :=
  ⟨keepsRegs_setMem s _, fun _ hk => State.memWrite16_read_other h v hk, fun _ _ => rfl, rfl⟩

theorem Frame.trans {rs rs' : List Reg8} {cs cs' ps ps' : List Nat} {s t u : State} (h : Frame rs cs ps s t)
    (h' : Frame rs' cs' ps' t u) : Frame (rs ++ rs') (cs ++ cs') (ps ++ ps') s u := by
  obtain ⟨hreg, hmem, hio, hres⟩ := h
  obtain ⟨hreg', hmem', hio', hres'⟩ := h'
  refine ⟨KeepsRegs.trans hreg hreg', fun k hk => ?_, fun k hk => ?_, hres'.trans hres⟩
  · rw [List.mem_append, not_or] at hk
    rw [hmem' k hk.2, hmem k hk.1]
  · rw [List.mem_append, not_or] at hk
    rw [hio' k hk.2, hio k hk.1]

/-! ### What a write leaves in its operand -/

theorem State.writeReg8_readReg8_same {dst : Reg8} (hm : dst ≠ .m) (s : State) :
    s.writeReg8 dst (s.readReg8 dst) = s := by
  cases dst
  case m => exact absurd rfl hm
  all_goals rfl

theorem State.readReg8_writeReg8_same {dst : Reg8} (hm : dst ≠ .m) (s : State) (v : Byte) :
    (s.writeReg8 dst v).readReg8 dst = v := by
  rw [State.readReg8_writeReg8 s dst dst v hm, if_pos rfl]

theorem State.writeReg8_m_read_hl {s : State} (h : s.wf = true) {dst : Reg8} (hm : dst = .m) (v : Byte) :
    (s.writeReg8 dst v).mem.read s.hl.toNat = v := by
  rw [State.writeReg8_read h, if_pos ⟨hm, rfl⟩]

theorem State.memWrite8_read_same {s : State} (h : s.wf = true) (addr : Word) (v : Byte) :
    (s.memWrite8 addr v).mem.read addr.toNat = v := by
  rw [State.memWrite8_read h, if_pos rfl]

theorem halves_hiByte_loByte (v : Word) : Halves (hiByte v) (loByte v) v := by
  rw [Halves, ← toNat_joinBytes, joinBytes_hiByte_loByte]

/-- HL stored at an address: L in the cell there and H in the next, 0xFFFF included (rule R59). -/
theorem State.memWrite16_hl_read {s : State} (h : s.wf = true) (addr : Word) :
    (s.memWrite16 addr s.hl).mem.read addr.toNat = s.l ∧
      (s.memWrite16 addr s.hl).mem.read (addr.toNat + 1) = s.h := by
  obtain ⟨hlo, hhi⟩ := holdsWord_iff.mp (holdsWord_memWrite16 h addr s.hl)
  exact ⟨hlo.trans (loByte_joinBytes s.h s.l), hhi.trans (hiByte_joinBytes s.h s.l)⟩

/-- The address that the pair of STAX or LDAX gives (rule R25). -/
theorem State.readIndexPair_toNat (s : State) (p : IndexPair) :
    (if p = .bc then s.bc.toNat else s.de.toNat) = (s.readIndexPair p).toNat := by
  cases p <;> rfl

/-! ### The bytes -/

theorem encoded_mov {dst src : Reg8} (h : ¬(dst = .m ∧ src = .m)) :
    Encoded (.mov dst src) [0x40 + 8 * dst.code + src.code] := by
  have hop : encode (.mov dst src) = [0x40 + 8 * dst.code + src.code] := by cases dst <;> cases src <;> rfl
  have hwf : (Instr.mov dst src).wf = true := by
    rw [Instr.wf, bne_iff_ne]
    rintro ⟨⟩
    exact h ⟨rfl, rfl⟩
  rw [← hop]
  exact encoded_encode hwf

theorem encoded_mvi (dst : Reg8) (v : Byte) : Encoded (.mvi dst v) [0x06 + 8 * dst.code, v] := by
  cases dst <;> exact encoded_encode rfl

theorem encodedWord_lxi (p : Pair) (v : Word) : EncodedWord (.lxi p v) (0x01 + 16 * p.code) v := by
  cases p <;> exact encodedWord_of (fun _ => rfl) (fun _ _ _ => rfl) v

theorem encoded_stax (p : IndexPair) : Encoded (.stax p) [if p = .bc then 0x02 else 0x12] := by
  cases p <;> exact encoded_encode rfl

theorem encoded_ldax (p : IndexPair) : Encoded (.ldax p) [if p = .bc then 0x0A else 0x1A] := by
  cases p <;> exact encoded_encode rfl

theorem encodedWord_lhld (addr : Word) : EncodedWord (.lhld addr) 0x2A addr :=
  encodedWord_of (fun _ => rfl) (fun _ _ _ => rfl) addr

end Sys2Proof.Machine
end

section
/-! SUPPORT. The statements of the family 40_data_transfer.md, settled. -/

namespace Sys2Proof.Machine

/-- Settles O23: MOV is one write of an operand, and a register written with its own value is unchanged. -/
theorem movCopiesTheSource : Obligations.MovCopiesTheSource := by
  refine ⟨fun dst src s h hmm => ⟨encoded_mov hmm, s.writeReg8 dst (s.readReg8 src), rfl, fun hm => ?_, fun hm => ?_,
    ?_, keepsSpPcFlags_writeReg8 s dst _, frame_writeReg8 h dst _⟩, encoded_hlt.2⟩
  · exact State.readReg8_writeReg8_same hm s _
  · exact State.writeReg8_m_read_hl h hm _
  · rintro rfl
    exact State.writeReg8_readReg8_same (fun hm => hmm ⟨hm, hm⟩) s

/-- Settles O24, from the same write as MOV. -/
theorem mviLoadsTheByte : Obligations.MviLoadsTheByte := fun dst v s h =>
  ⟨encoded_mvi dst v, s.writeReg8 dst v, rfl, fun hm => State.readReg8_writeReg8_same hm s v,
    fun hm => State.writeReg8_m_read_hl h hm v, keepsSpPcFlags_writeReg8 s dst v, frame_writeReg8 h dst v⟩

/-- Settles O25: a pair takes the two halves of the word, SP the whole. -/
theorem lxiLoadsTheWord : Obligations.LxiLoadsTheWord := by
  intro p v s
  refine ⟨encodedWord_lxi p v, s.writePair p v, rfl, ?_, ?_, ?_, by cases p <;> rfl, State.writePair_pc s p v,
    State.writePair_flags s p v, frame_writePair s p v⟩
  all_goals
    rintro rfl
    exact halves_hiByte_loByte v

/-- Settles O26: both are one write of a byte, at the address their operand gives. -/
theorem staxAndStaStoreA : Obligations.StaxAndStaStoreA := by
  refine ⟨fun p s h => ⟨encoded_stax p, s.memWrite8 (s.readIndexPair p) s.a, rfl, ?_, ⟨rfl, rfl, rfl⟩, ?_⟩,
    fun addr s h => ⟨?_, s.memWrite8 addr s.a, rfl, ?_, ⟨rfl, rfl, rfl⟩, frame_memWrite8 h addr s.a⟩⟩
  · rw [State.readIndexPair_toNat]
    exact State.memWrite8_read_same h _ _
  · rw [State.readIndexPair_toNat]
    exact frame_memWrite8 h _ _
  · exact encodedWord_of (fun _ => rfl) (fun _ _ _ => rfl) addr
  · exact State.memWrite8_read_same h addr s.a

/-- Settles O27: both are one read of a byte, at the address their operand gives. -/
theorem ldaxAndLdaLoadA : Obligations.LdaxAndLdaLoadA := by
  refine ⟨fun p s => ⟨encoded_ldax p, s.setA (s.memRead8 (s.readIndexPair p)), rfl, ?_, ⟨rfl, rfl, rfl⟩,
    frame_setA s _⟩, fun addr s => ⟨encodedWord_lhld addr, ?_, s.setA (s.memRead8 addr), rfl, rfl, ⟨rfl, rfl, rfl⟩,
    frame_setA s _⟩⟩
  · rw [State.readIndexPair_toNat]
    rfl
  · exact encodedWord_of (fun _ => rfl) (fun _ _ _ => rfl) addr

/-- Settles O28, from the two cells of a 16-bit access. -/
theorem shldAndLhldMoveHl : Obligations.ShldAndLhldMoveHl := by
  refine ⟨fun addr s h => ?_, fun addr s => ?_⟩
  · obtain ⟨hl, hh⟩ := State.memWrite16_hl_read h addr
    exact ⟨encodedWord_of (fun _ => rfl) (fun _ _ _ => rfl) addr, s.memWrite16 addr s.hl, rfl, hl, hh, ⟨rfl, rfl, rfl⟩,
      frame_memWrite16 h addr s.hl⟩
  · exact ⟨encodedWord_lhld addr, s.setHl (s.memRead16 addr), rfl, loByte_memRead16 s addr, hiByte_memRead16 s addr,
      ⟨rfl, rfl, rfl⟩, frame_setHl s _⟩

/-- Settles O29: XTHL is the store of SHLD at SP and the load of LHLD from what SP addressed before. -/
theorem xchgXthlSphlMoveHl : Obligations.XchgXthlSphlMoveHl := by
  refine ⟨fun s => ?_, fun s h => ?_, fun s => ?_⟩
  · exact ⟨encoded_encode rfl, (s.setHl s.de).setDe s.hl, rfl, hiByte_joinBytes s.d s.e, loByte_joinBytes s.d s.e,
      hiByte_joinBytes s.h s.l, loByte_joinBytes s.h s.l, ⟨rfl, rfl, rfl⟩, exec_keepsRegs (i := .xchg) rfl,
      fun _ _ => rfl, fun _ _ => rfl, rfl⟩
  · obtain ⟨hl, hh⟩ := State.memWrite16_hl_read h s.sp
    exact ⟨encoded_encode rfl, (s.memWrite16 s.sp s.hl).setHl (s.memRead16 s.sp), rfl, loByte_memRead16 s s.sp,
      hiByte_memRead16 s s.sp, hl, hh, ⟨rfl, rfl, rfl⟩, (frame_memWrite16 h s.sp s.hl).trans (frame_setHl _ _)⟩
  · exact ⟨encoded_encode rfl, s.setSp s.hl, rfl, halves_joinBytes s.h s.l, rfl, rfl, KeepsRegs.refl s,
      fun _ _ => rfl, fun _ _ => rfl, rfl⟩

end Sys2Proof.Machine
end

section
/-! SUPPORT. Arithmetic: the bytes of its instructions, what each ALU core answers in numbers beside `addCore` and
`subCore` (rules R31, R150, R151, R154, R155), and the packed decimal sum. -/

namespace Sys2Proof.Machine

/-! ### The bytes -/

theorem encoded_add (src : Reg8) : Encoded (.add src) [0x80 + src.code] := by
  cases src <;> exact encoded_encode rfl

theorem encoded_adc (src : Reg8) : Encoded (.adc src) [0x88 + src.code] := by
  cases src <;> exact encoded_encode rfl

theorem encoded_sub (src : Reg8) : Encoded (.sub src) [0x90 + src.code] := by
  cases src <;> exact encoded_encode rfl

theorem encoded_sbb (src : Reg8) : Encoded (.sbb src) [0x98 + src.code] := by
  cases src <;> exact encoded_encode rfl

theorem encoded_cmp (src : Reg8) : Encoded (.cmp src) [0xB8 + src.code] := by
  cases src <;> exact encoded_encode rfl

theorem encoded_inr (r : Reg8) : Encoded (.inr r) [0x04 + 8 * r.code] := by
  cases r <;> exact encoded_encode rfl

theorem encoded_dcr (r : Reg8) : Encoded (.dcr r) [0x05 + 8 * r.code] := by
  cases r <;> exact encoded_encode rfl

theorem encoded_inx (p : Pair) : Encoded (.inx p) [0x03 + 16 * p.code] := by
  cases p <;> exact encoded_encode rfl

theorem encoded_dcx (p : Pair) : Encoded (.dcx p) [0x0B + 16 * p.code] := by
  cases p <;> exact encoded_encode rfl

theorem encoded_dad (p : Pair) : Encoded (.dad p) [0x09 + 16 * p.code] := by
  cases p <;> exact encoded_encode rfl

/-! ### The result flags and the 8-bit cores -/

theorem resultFlags_szpFlags (res : Byte) (ac cy : Bool) : ResultFlags (szpFlags res ac cy) res := by
  refine ⟨sign_iff res, zero_iff res, ?_⟩
  rw [← countOnes_eq]
  exact beq_iff_eq

theorem addsToA_of_addCore {i : Instr} {s : State} {v : Byte} {cin : Bool}
    (he : exec i s = .next (s.setAlu (addCore s.a v cin))) : AddsToA i s v cin :=
  ⟨_, he, addCore_sum s.a v cin, addCore_ac s.a v cin, resultFlags_szpFlags _ _ _, rfl, rfl, frame_setA s _⟩

theorem borrowFlags_subCore (a v : Byte) (bin : Bool) :
    BorrowFlags (subCore a v bin).flags a v bin (subCore a v bin).res :=
  ⟨subCore_diff a v bin, subCore_ac a v bin, resultFlags_szpFlags _ _ _⟩

theorem subtractsFromA_of_subCore {i : Instr} {s : State} {v : Byte} {bin : Bool}
    (he : exec i s = .next (s.setAlu (subCore s.a v bin))) : SubtractsFromA i s v bin :=
  ⟨_, he, borrowFlags_subCore s.a v bin, rfl, rfl, frame_setA s _⟩

theorem frame_setFlags (s : State) (f : Flags) : Frame [] [] [] s (s.setFlags f) :=
  ⟨KeepsRegs.refl s, fun _ _ => rfl, fun _ _ => rfl, rfl⟩

theorem comparesWithA_of_subCore {i : Instr} {s : State} {v : Byte}
    (he : exec i s = .next (s.setFlags (subCore s.a v false).flags)) : ComparesWithA i s v :=
  ⟨_, _, he, borrowFlags_subCore s.a v false, rfl, rfl, frame_setFlags s _⟩

theorem incCore_ac (v : Byte) (old : Flags) : (incCore v old).flags.ac = true ↔ v.toNat % 16 = 15 := beq_iff_eq

theorem decCore_ac (v : Byte) (old : Flags) : (decCore v old).flags.ac = true ↔ v.toNat % 16 = 0 := beq_iff_eq

theorem incCore_toNat (v : Byte) (old : Flags) : (incCore v old).res.toNat = (v.toNat + 1) % 256 :=
  BitVec.toNat_add v 1

theorem decCore_toNat (v : Byte) (old : Flags) : (decCore v old).res.toNat = (v.toNat + 255) % 256 := by
  rw [Nat.add_comm]
  exact BitVec.toNat_sub v 1

/-! ### DAD (rule R154) -/

theorem dadSum_carry (hl v : Word) (old : Flags) :
    (BitVec.ofNat 16 (dadSum hl v)).toNat + 65536 * (dadFlags hl v old).cy.toNat = hl.toNat + v.toNat := by
  have hhl := hl.isLt
  have hv := v.isLt
  have hcy : (dadFlags hl v old).cy = decide (hl.toNat + v.toNat > 0xFFFF) := rfl
  rw [hcy, dadSum, BitVec.toNat_ofNat]
  by_cases h : hl.toNat + v.toNat > 0xFFFF
  · rw [decide_eq_true h, Bool.toNat_true]
    omega
  · rw [decide_eq_false h, Bool.toNat_false]
    omega

/-! ### DAA (rule R155) -/

/-- What DAA adds for the low digit. -/
def daaLow (a : Byte) (f : Flags) : Nat := if lowNibble a > 9 ∨ f.ac = true then 0x06 else 0

/-- What DAA adds for the high digit. -/
def daaHigh (a : Byte) (f : Flags) : Nat := if a.toNat > 0x99 ∨ f.cy = true then 0x60 else 0

/-- The two adjustments share no bit, so the OR of the rule is their sum. -/
theorem toNat_daaAdjust (a : Byte) (f : Flags) : (daaAdjust a f).toNat = daaLow a f + daaHigh a f := by
  simp only [daaAdjust, daaLow, daaHigh, Bool.or_eq_true, decide_eq_true_iff]
  split <;> split <;> rfl

theorem lowNibble_daaAdjust (a : Byte) (f : Flags) : lowNibble (daaAdjust a f) = daaLow a f := by
  rw [lowNibble, toNat_daaAdjust, daaLow, daaHigh]
  split <;> split <;> rfl

theorem daaCore_toNat (a : Byte) (f : Flags) :
    (daaCore a f).res.toNat = (a.toNat + daaLow a f + daaHigh a f) % 256 := by
  rw [Nat.add_assoc, ← toNat_daaAdjust]
  exact BitVec.toNat_add a (daaAdjust a f)

theorem daaCore_ac (a : Byte) (f : Flags) :
    (daaCore a f).flags.ac = true ↔ a.toNat % 16 + daaLow a f > 0xF := by
  rw [← lowNibble_daaAdjust]
  exact decide_eq_true_iff

theorem daaCore_cy (a : Byte) (f : Flags) :
    (daaCore a f).flags.cy = true ↔ a.toNat > 0x99 ∨ f.cy = true := by
  simp only [daaCore, szpFlags, Bool.or_eq_true, decide_eq_true_iff]

/-! ### Packed decimal addition -/

/-- The two digits of a packed decimal byte as a number. -/
def decimal (v : Byte) : Nat := 10 * (v.toNat / 16) + v.toNat % 16

/-- Both digits are below 10. -/
def IsDecimal (v : Byte) : Prop := v.toNat % 16 ≤ 9 ∧ v.toNat / 16 ≤ 9

section packedDecimal
variable {a v : Byte} (cin : Bool)

/-- After an addition of packed decimal bytes, DAA adjusts the low digit exactly when the digits and the carry-in
reach ten. -/
theorem daaLow_addCore (ha : IsDecimal a) (hv : IsDecimal v) :
    daaLow (addCore a v cin).res (addCore a v cin).flags =
      if a.toNat % 16 + v.toNat % 16 + cin.toNat > 9 then 0x06 else 0 := by
  have hsum := addCore_sum a v cin
  have hc := Bool.toNat_le cin
  obtain ⟨ha, -⟩ := ha
  obtain ⟨hv, -⟩ := hv
  refine if_congr ?_ rfl rfl
  rw [addCore_ac, lowNibble]
  omega

/-- The test of DAA's high digit after an addition is one on the unreduced sum. -/
theorem addCore_above_iff :
    ((addCore a v cin).res.toNat > 0x99 ∨ (addCore a v cin).flags.cy = true) ↔
      a.toNat + v.toNat + cin.toNat > 0x99 := by
  have hsum := addCore_sum a v cin
  have hres := (addCore a v cin).res.isLt
  have hcy := Bool.toNat_le (addCore a v cin).flags.cy
  rw [← Bool.toNat_eq_one]
  omega

/-- The result and the flags of `addCore` followed by those of DAA. -/
def addThenDaa (a v : Byte) (cin : Bool) : AluOut := daaCore (addCore a v cin).res (addCore a v cin).flags

theorem addThenDaa_toNat (ha : IsDecimal a) (hv : IsDecimal v) :
    (addThenDaa a v cin).res.toNat =
      ((addCore a v cin).res.toNat + (if a.toNat % 16 + v.toNat % 16 + cin.toNat > 9 then 0x06 else 0) +
        if a.toNat + v.toNat + cin.toNat > 0x99 then 0x60 else 0) % 256 := by
  rw [addThenDaa, daaCore_toNat, daaLow_addCore cin ha hv, daaHigh, if_congr (addCore_above_iff cin) rfl rfl]

theorem addThenDaa_cy : (addThenDaa a v cin).flags.cy = decide (a.toNat + v.toNat + cin.toNat > 0x99) := by
  rw [Bool.eq_iff_iff, decide_eq_true_iff, addThenDaa, daaCore_cy, addCore_above_iff]

/-- The digits of the result and its carry are those of the decimal sum, in each of the four cases of the two digit
carries. -/
theorem addThenDaa_decimal (ha : IsDecimal a) (hv : IsDecimal v) :
    IsDecimal (addThenDaa a v cin).res ∧
      decimal (addThenDaa a v cin).res + 100 * (addThenDaa a v cin).flags.cy.toNat =
        decimal a + decimal v + cin.toNat := by
  have hsum := addCore_sum a v cin
  have hres := addThenDaa_toNat cin ha hv
  obtain ⟨ha0, ha1⟩ := ha
  obtain ⟨hv0, hv1⟩ := hv
  have hc := Bool.toNat_le cin
  rw [addThenDaa_cy, IsDecimal, decimal, decimal, decimal]
  by_cases hhigh : a.toNat + v.toNat + cin.toNat > 0x99
  · rw [if_pos hhigh] at hres
    rw [decide_eq_true hhigh, Bool.toNat_true]
    split at hres <;> omega
  · rw [if_neg hhigh] at hres
    rw [decide_eq_false hhigh, Bool.toNat_false]
    split at hres <;> omega

end packedDecimal

end Sys2Proof.Machine
end

section
/-! SUPPORT. The statements of the family 42_arithmetic.md, settled. -/

namespace Sys2Proof.Machine

/-- Settles O33: the four are one addition to A, with their operand and their carry-in. -/
theorem addFamily : Obligations.AddFamily := fun _ src _ =>
  ⟨encoded_add src, addsToA_of_addCore rfl, encoded_adc src, addsToA_of_addCore rfl,
    encoded_encode rfl, addsToA_of_addCore rfl, encoded_encode rfl, addsToA_of_addCore rfl⟩

/-- Settles O34: the four are one subtraction from A, and the compares the flags of one. -/
theorem subtractFamily : Obligations.SubtractFamily := fun _ src _ =>
  ⟨encoded_sub src, subtractsFromA_of_subCore rfl, encoded_sbb src, subtractsFromA_of_subCore rfl,
    encoded_encode rfl, subtractsFromA_of_subCore rfl, encoded_encode rfl, subtractsFromA_of_subCore rfl,
    encoded_cmp src, comparesWithA_of_subCore rfl, encoded_encode rfl, comparesWithA_of_subCore rfl⟩

/-- Settles O35: INR is one write of its operand, then of the flags. -/
theorem inrIncrements : Obligations.InrIncrements := fun r s h =>
  ⟨encoded_inr r, _, rfl, (incCore (s.readReg8 r) s.flags).res, incCore_toNat _ s.flags,
    fun hm => State.readReg8_writeReg8_same hm s _, fun hm => State.writeReg8_m_read_hl h hm _,
    incCore_ac _ s.flags, resultFlags_szpFlags _ _ _, rfl, State.writeReg8_sp s r _, State.writeReg8_pc s r _,
    frame_writeReg8 h r _⟩

/-- Settles O36, from the same writes as INR. -/
theorem dcrDecrements : Obligations.DcrDecrements := fun r s h =>
  ⟨encoded_dcr r, _, rfl, (decCore (s.readReg8 r) s.flags).res, decCore_toNat _ s.flags,
    fun hm => State.readReg8_writeReg8_same hm s _, fun hm => State.writeReg8_m_read_hl h hm _,
    decCore_ac _ s.flags, resultFlags_szpFlags _ _ _, rfl, State.writeReg8_sp s r _, State.writeReg8_pc s r _,
    frame_writeReg8 h r _⟩

/-- Settles O37: both are one write of a pair. -/
theorem inxAndDcxStepAPair : Obligations.InxAndDcxStepAPair := by
  refine fun p s => ⟨⟨encoded_inx p, s.writePair p (s.readPair p + 1), rfl, ?_, State.writePair_sp s p _,
    State.writePair_pc s p _, State.writePair_flags s p _, frame_writePair s p _⟩,
    encoded_dcx p, s.writePair p (s.readPair p - 1), rfl, ?_, State.writePair_sp s p _,
    State.writePair_pc s p _, State.writePair_flags s p _, frame_writePair s p _⟩
  · rw [State.readPair_writePair]
    exact BitVec.toNat_add (s.readPair p) 1
  · rw [State.readPair_writePair, Nat.add_comm]
    exact BitVec.toNat_sub (s.readPair p) 1

/-- Settles O38: the sum as a word and its carry, before and after in halves. -/
theorem dadAddsToHl : Obligations.DadAddsToHl := by
  refine fun p s => ⟨encoded_dad p, _, rfl, ?_, rfl, rfl, rfl, frame_setHl s _⟩
  calc
    _ = (BitVec.ofNat 16 (dadSum s.hl (s.readPair p))).toNat +
        65536 * (dadFlags s.hl (s.readPair p) s.flags).cy.toNat := congrArg (· + _) (halves_hiByte_loByte _)
    _ = s.hl.toNat + (s.readPair p).toNat := dadSum_carry s.hl (s.readPair p) s.flags
    _ = _ := congrArg (· + _) (halves_joinBytes s.h s.l).symm

/-- Settles O39: the two amounts that DAA adds, and the carries of adding them. -/
theorem daaAdjusts : Obligations.DaaAdjusts := fun s =>
  ⟨encoded_encode rfl, _, rfl, daaLow s.a s.flags, daaHigh s.a s.flags, rfl, rfl, daaCore_toNat s.a s.flags,
    daaCore_ac s.a s.flags, daaCore_cy s.a s.flags, resultFlags_szpFlags _ _ _, rfl, rfl, frame_setA s _⟩

/-- Settles O40: ADI or ACI and then DAA leave in A and CY what `addThenDaa` gives. -/
theorem decimalAddition : Obligations.DecimalAddition := by
  intro s v ha ha' hv hv'
  obtain ⟨⟨hlow, hhigh⟩, hsum⟩ := addThenDaa_decimal false ⟨ha, ha'⟩ ⟨hv, hv'⟩
  obtain ⟨⟨hlow', hhigh'⟩, hsum'⟩ := addThenDaa_decimal s.flags.cy ⟨ha, ha'⟩ ⟨hv, hv'⟩
  exact ⟨⟨_, _, rfl, rfl, hlow, hhigh, hsum⟩, _, _, rfl, rfl, hlow', hhigh', hsum'⟩

end Sys2Proof.Machine
end

section
/-! SUPPORT. Logical, rotate and flag instructions: the bytes, the bits of the logical results and of the rotates (rules
R170 to R182), and what no instruction does to CY (rules R183 to R185). -/

namespace Sys2Proof.Machine

/-! ### The bytes -/

theorem encoded_ana (src : Reg8) : Encoded (.ana src) [0xA0 + src.code] := by
  cases src <;> exact encoded_encode rfl

theorem encoded_xra (src : Reg8) : Encoded (.xra src) [0xA8 + src.code] := by
  cases src <;> exact encoded_encode rfl

theorem encoded_ora (src : Reg8) : Encoded (.ora src) [0xB0 + src.code] := by
  cases src <;> exact encoded_encode rfl

/-! ### The logical results (rule R170) -/

theorem logicalResult_of_logicCore {i : Instr} {s : State} {res : Byte} {bit : Nat → Bool} {ac : Bool}
    (he : exec i s = .next (s.setAlu (logicCore res ac))) (hbit : ∀ k, res.getLsbD k = bit k) :
    LogicalResult i s bit ac :=
  ⟨_, he, fun k _ => hbit k, resultFlags_szpFlags res ac false, rfl, rfl, rfl, rfl, frame_setA s res⟩

/-! ### The rotates (rules R179 to R182)

RLC and RAL move A one place to the left and RRC and RAR one place to the right; they differ in the bit that comes in. -/

/-- `a` one place to the left, with `b` in bit 0. -/
def shiftInLow (a : Byte) (b : Bool) : Byte := a.extractLsb' 0 7 ++ BitVec.ofBool b

/-- `a` one place to the right, with `b` in bit 7. -/
def shiftInHigh (a : Byte) (b : Bool) : Byte := BitVec.ofBool b ++ a.extractLsb' 1 7

theorem extractLsb'_one (a : Byte) (i : Nat) : a.extractLsb' i 1 = BitVec.ofBool (a.getLsbD i) := by
  refine BitVec.eq_of_getLsbD_eq fun k hk => ?_
  cases Nat.lt_one_iff.mp hk
  simp

theorem rlcCore_eq (a : Byte) (f : Flags) :
    rlcCore a f = { res := shiftInLow a (a.getLsbD 7), flags := { f with cy := a.getLsbD 7 } } := by
  rw [rlcCore, extractLsb'_one, shiftInLow]

theorem rrcCore_eq (a : Byte) (f : Flags) :
    rrcCore a f = { res := shiftInHigh a (a.getLsbD 0), flags := { f with cy := a.getLsbD 0 } } := by
  rw [rrcCore, extractLsb'_one, shiftInHigh]

theorem ralCore_eq (a : Byte) (f : Flags) :
    ralCore a f = { res := shiftInLow a f.cy, flags := { f with cy := a.getLsbD 7 } } := rfl

theorem rarCore_eq (a : Byte) (f : Flags) :
    rarCore a f = { res := shiftInHigh a f.cy, flags := { f with cy := a.getLsbD 0 } } := rfl

theorem getLsbD_shiftInLow (a : Byte) (b : Bool) {k : Nat} (hk : k < 8) :
    (shiftInLow a b).getLsbD k = if k = 0 then b else a.getLsbD (k - 1) := by
  rw [shiftInLow, BitVec.getLsbD_append, BitVec.getLsbD_extractLsb', Nat.zero_add]
  by_cases h0 : k = 0
  · cases h0
    simp
  · have h1 : ¬k < 1 := by omega
    have h7 : k - 1 < 7 := by omega
    simp [h0, h1, h7]

theorem getLsbD_shiftInHigh (a : Byte) (b : Bool) {k : Nat} (hk : k < 8) :
    (shiftInHigh a b).getLsbD k = if k = 7 then b else a.getLsbD (k + 1) := by
  rw [shiftInHigh, BitVec.getLsbD_append, BitVec.getLsbD_extractLsb', Nat.add_comm 1 k]
  by_cases h7 : k = 7
  · cases h7
    simp
  · have hlt : k < 7 := by omega
    simp [h7, hlt]

/-- Moving right brings back what moving left put out. -/
theorem shiftInHigh_shiftInLow (a : Byte) (b : Bool) : shiftInHigh (shiftInLow a b) (a.getLsbD 7) = a := by
  refine BitVec.eq_of_getLsbD_eq fun k hk => ?_
  rw [getLsbD_shiftInHigh _ _ hk]
  split
  case isTrue h => rw [h]
  case isFalse h => rw [getLsbD_shiftInLow a b (by omega), if_neg k.succ_ne_zero, Nat.add_sub_cancel]

/-- Moving left brings back what moving right put out. -/
theorem shiftInLow_shiftInHigh (a : Byte) (b : Bool) : shiftInLow (shiftInHigh a b) (a.getLsbD 0) = a := by
  refine BitVec.eq_of_getLsbD_eq fun k hk => ?_
  rw [getLsbD_shiftInLow _ _ hk]
  split
  case isTrue h => rw [h]
  case isFalse h => rw [getLsbD_shiftInHigh a b (by omega), if_neg (by omega), Nat.sub_add_cancel (by omega)]

theorem rarCore_ralCore (a : Byte) (f : Flags) :
    rarCore (ralCore a f).res (ralCore a f).flags = { res := a, flags := f } := by
  rw [ralCore_eq, rarCore_eq, shiftInHigh_shiftInLow, getLsbD_shiftInLow a f.cy (by decide), if_pos rfl]

theorem ralCore_rarCore (a : Byte) (f : Flags) :
    ralCore (rarCore a f).res (rarCore a f).flags = { res := a, flags := f } := by
  rw [rarCore_eq, ralCore_eq, shiftInLow_shiftInHigh, getLsbD_shiftInHigh a f.cy (by decide), if_pos rfl]

theorem rrcCore_rlcCore_res (a : Byte) (f : Flags) :
    (rrcCore (rlcCore a f).res (rlcCore a f).flags).res = a := by
  rw [rlcCore_eq, rrcCore_eq, getLsbD_shiftInLow a _ (by decide), if_pos rfl]
  exact shiftInHigh_shiftInLow a _

theorem rlcCore_rrcCore_res (a : Byte) (f : Flags) :
    (rlcCore (rrcCore a f).res (rrcCore a f).flags).res = a := by
  rw [rrcCore_eq, rlcCore_eq, getLsbD_shiftInHigh a _ (by decide), if_pos rfl]
  exact shiftInLow_shiftInHigh a _

theorem rotatesA_of_setAlu {i : Instr} {s : State} {out : AluOut} {bit : Nat → Bool} {cy : Bool}
    (he : exec i s = .next (s.setAlu out)) (hbit : ∀ k, k < 8 → out.res.getLsbD k = bit k)
    (hflags : out.flags = { s.flags with cy := cy }) : RotatesA i s bit cy :=
  ⟨_, he, hbit, hflags, rfl, rfl, frame_setA s out.res⟩

/-! ### CMA (rule R183) -/

theorem exec_cma_eq (s : State) : exec .cma s = .next (s.setA (~~~s.a)) :=
  congrArg (fun v => Host.Outcome.next (s.setA v)) BitVec.xor_allOnes

/-! ### No instruction just clears CY (rule R185) -/

/-- In every state `i` answers that state with CY clear and nothing else changed. -/
def ClearsCyAlone (i : Instr) : Prop := ∀ s : State, exec i s = .next (s.setFlags { s.flags with cy := false })

theorem ClearsCyAlone.next_eq {i : Instr} {s t : State} (h : ClearsCyAlone i) (he : exec i s = .next t) :
    t = s.setFlags { s.flags with cy := false } :=
  Host.Outcome.next.inj (he.symm.trans (h s))

theorem ClearsCyAlone.writes_cy {i : Instr} (h : ClearsCyAlone i) : .cy ∈ flagsWritten i := by
  by_contra hcy
  have hkept := exec_flag_of_not_written (h (State.reset.setFlags { Flags.clear with cy := true })) hcy
  exact absurd hkept (by decide)

/-- A sign that is written without being read does not depend on the sign before; a kept sign does. -/
theorem ClearsCyAlone.not_writes_s {i : Instr} (h : ClearsCyAlone i) (hread : .s ∉ flagsRead i) :
    .s ∉ flagsWritten i := by
  intro hs
  have hagree : ∀ f ∈ flagsRead i, ({ Flags.clear with s := true } : Flags).get f = State.reset.flags.get f := by
    intro f hf
    cases f
    case s => exact absurd hf hread
    all_goals rfl
  obtain ⟨-, hsame⟩ := exec_setFlags hagree (h State.reset) (h (State.reset.setFlags { Flags.clear with s := true }))
  exact absurd (hsame .s hs) (by decide)

/-- A state with A = 1 and every pair 0x0101: each rotate changes A in it, and each DAD changes HL. -/
def onesState : State :=
  { State.reset with a := 1, b := 1, c := 1, d := 1, e := 1, h := 1, l := 1, sp := 0x0101 }

/-- The instructions that write S compute it from no flag but AC and CY; of those that write CY alone, STC and CMC set
it in a state where it is clear, and the others change a register. -/
theorem not_clearsCyAlone (i : Instr) : ¬ClearsCyAlone i := by
  intro h
  have hcy := h.writes_cy
  cases i
  case add | sub | adi | sui | ana | xra | ora | cmp | ani | xri | ori | cpi =>
    exact h.not_writes_s List.not_mem_nil List.mem_cons_self
  case adc | aci | sbb | sbi => exact h.not_writes_s (by decide : FlagName.s ∉ [.cy]) List.mem_cons_self
  case daa => exact h.not_writes_s (by decide) List.mem_cons_self
  case pop p =>
    cases p
    case psw => exact h.not_writes_s List.not_mem_nil List.mem_cons_self
    all_goals exact absurd hcy List.not_mem_nil
  case dad p => cases p <;> exact absurd (h.next_eq (s := onesState) rfl) (by decide)
  case rlc | rrc | ral | rar | stc | cmc => exact absurd (h.next_eq (s := onesState) rfl) (by decide)
  case inr | dcr => exact absurd hcy (by decide : FlagName.cy ∉ [.s, .z, .ac, .p])
  all_goals exact absurd hcy List.not_mem_nil

end Sys2Proof.Machine
end

section
/-! SUPPORT. The statements of the family 43_logical_rotate.md, settled. -/

namespace Sys2Proof.Machine

/-- Settles O41: the six are one logical result in A, whose bits are those of the bitwise operation. -/
theorem logicalFamily : Obligations.LogicalFamily := fun _ src _ =>
  ⟨encoded_ana src, logicalResult_of_logicCore rfl fun _ => BitVec.getLsbD_and,
    encoded_xra src, logicalResult_of_logicCore rfl fun _ => BitVec.getLsbD_xor,
    encoded_ora src, logicalResult_of_logicCore rfl fun _ => BitVec.getLsbD_or,
    encoded_encode rfl, logicalResult_of_logicCore rfl fun _ => BitVec.getLsbD_and,
    encoded_encode rfl, logicalResult_of_logicCore rfl fun _ => BitVec.getLsbD_xor,
    encoded_encode rfl, logicalResult_of_logicCore rfl fun _ => BitVec.getLsbD_or⟩

/-- Settles O42: each rotate moves A one place with one bit coming in. -/
theorem rotateFamily : Obligations.RotateFamily := by
  refine fun s => ⟨encoded_encode rfl, rotatesA_of_setAlu rfl (fun k hk => ?_) rfl,
    encoded_encode rfl, rotatesA_of_setAlu rfl (fun k hk => ?_) rfl,
    encoded_encode rfl, rotatesA_of_setAlu rfl (fun k hk => getLsbD_shiftInLow s.a s.flags.cy hk) rfl,
    encoded_encode rfl, rotatesA_of_setAlu rfl (fun k hk => getLsbD_shiftInHigh s.a s.flags.cy hk) rfl⟩
  · rw [rlcCore_eq]
    exact getLsbD_shiftInLow s.a _ hk
  · rw [rrcCore_eq]
    exact getLsbD_shiftInHigh s.a _ hk

/-- Settles O43, from the cores of the rotates. -/
theorem rotatesUndoEachOther : Obligations.RotatesUndoEachOther := fun s =>
  ⟨⟨_, rfl, congrArg (fun out => Host.Outcome.next (s.setAlu out)) (rarCore_ralCore s.a s.flags)⟩,
    ⟨_, rfl, congrArg (fun out => Host.Outcome.next (s.setAlu out)) (ralCore_rarCore s.a s.flags)⟩,
    ⟨_, _, rfl, rfl, congrArg s.setA (rrcCore_rlcCore_res s.a s.flags)⟩,
    _, _, rfl, rfl, congrArg s.setA (rlcCore_rrcCore_res s.a s.flags)⟩

/-- Settles O44: CMA is the bitwise complement, STC and CMC are one write of the flags, and `not_clearsCyAlone` is the
last part. -/
theorem cmaStcCmc : Obligations.CmaStcCmc := by
  refine ⟨fun s => ⟨⟨encoded_encode rfl, _, exec_cma_eq s, BitVec.toNat_not, ⟨rfl, rfl, rfl⟩, frame_setA s _⟩,
    ⟨encoded_encode rfl, _, rfl, rfl, rfl, rfl, frame_setFlags s _⟩,
    ⟨encoded_encode rfl, _, rfl, rfl, rfl, rfl, frame_setFlags s _⟩,
    ⟨_, exec_cma_eq s, ?_⟩, ⟨_, rfl, rfl⟩, _, rfl, rfl, BitVec.and_self⟩,
    fun i => not_forall.mp (not_clearsCyAlone i)⟩
  rw [exec_cma_eq, State.setA_a, BitVec.not_not, State.setA_setA]
  rfl

end Sys2Proof.Machine
end

section
/-! SUPPORT. Jumps, the target and the byte of RST, and a return right after a call (rules R200, R202, R220, R231). -/

namespace Sys2Proof.Machine

theorem State.jumpIf_pc (s : State) (taken : Bool) (target : Word) :
    (s.jumpIf taken target).pc = if taken then target else s.pc := by
  cases taken <;> rfl

theorem frame_jumpIf (s : State) (taken : Bool) (target : Word) : Frame [] [] [] s (s.jumpIf taken target) := by
  refine ⟨keepsRegs_jumpIf s taken target, fun k _ => ?_, fun k _ => ?_, State.jumpIf_lastResult s taken target⟩
  · rw [State.jumpIf_mem]
  · cases taken <;> rfl

theorem jumpsTo_of_jumpIf {i : Instr} {s : State} {taken : Bool} {target : Word}
    (he : exec i s = .next (s.jumpIf taken target)) : JumpsTo i s taken target :=
  ⟨_, he, State.jumpIf_pc s taken target, State.jumpIf_sp s taken target, State.jumpIf_flags s taken target,
    frame_jumpIf s taken target⟩

/-- RET after a push of PC comes back: the word popped is the word pushed, so only memory differs (rule R64). -/
theorem exec_ret_callTo {s : State} (h : s.wf = true) (target : Word) :
    exec .ret (s.callTo target) = .next (s.setMem (s.push16 s.pc).mem) := by
  have hpop : (s.callTo target).memRead16 (s.callTo target).sp = s.pc := State.memRead16_push16 h s.pc
  have hsp : (s.callTo target).sp + 2 = s.sp := BitVec.sub_add_cancel s.sp 2
  rw [exec, execRet, State.returnFrom, State.pop16, hpop, hsp]
  rfl

theorem encode_rst : ∀ n : BitVec 3, encode (.rst n) = [BitVec.ofNat 8 (0xC7 + 8 * n.toNat)] := by
  decide

theorem encoded_rst (n : BitVec 3) : Encoded (.rst n) [BitVec.ofNat 8 (0xC7 + 8 * n.toNat)] := by
  rw [← encode_rst]
  exact encoded_encode rfl

/-- The target of RST is 8 times its number: no 3-bit number carries it past 16 bits (rule R231, decision D19). -/
theorem toNat_rstTarget (n : BitVec 3) : (n.setWidth 16 * 8 : Word).toNat = 8 * n.toNat := by
  bv_omega

theorem exec_rst_eq (n : BitVec 3) (s : State) :
    exec (.rst n) s = .next (s.callTo (BitVec.ofNat 16 (8 * n.toNat))) := by
  rw [← toNat_rstTarget, BitVec.ofNat_toNat, BitVec.setWidth_eq]
  rfl

end Sys2Proof.Machine
end

section
/-! SUPPORT. The statements of the family 44_control_transfer.md, settled. -/

namespace Sys2Proof.Machine

/-- Settles O45, one jump for all nine. -/
theorem jumps : Obligations.Jumps := by
  intro s a
  refine ⟨⟨?_, jumpsTo_of_jumpIf rfl⟩, ⟨?_, jumpsTo_of_jumpIf rfl⟩, ⟨?_, jumpsTo_of_jumpIf rfl⟩,
    ⟨?_, jumpsTo_of_jumpIf rfl⟩, ⟨?_, jumpsTo_of_jumpIf rfl⟩, ⟨?_, jumpsTo_of_jumpIf rfl⟩,
    ⟨?_, jumpsTo_of_jumpIf rfl⟩, ⟨?_, jumpsTo_of_jumpIf rfl⟩, ⟨?_, jumpsTo_of_jumpIf rfl⟩⟩
  all_goals exact encodedWord_of (fun _ => rfl) (fun _ _ _ => rfl) a

/-- Settles O48: CALL and RST are one push of PC, and RET after it changes nothing but the two cells pushed to. -/
theorem returnComesBack : Obligations.ReturnComesBack := by
  intro s a n h
  have hcells : ∀ k, k ∉ pushCells s → (s.push16 s.pc).mem.read k = s.mem.read k :=
    fun _ hk => State.push16_read_other h s.pc hk
  exact ⟨⟨_, _, rfl, rfl, exec_ret_callTo h a, rfl, hcells⟩,
    _, _, rfl, toNat_rstTarget n, exec_ret_callTo h _, rfl, hcells⟩

/-- Settles O49: RST is the push of a call, and PCHL a jump that is always taken. -/
theorem rstAndPchl : Obligations.RstAndPchl :=
  ⟨fun n s h => ⟨encoded_rst n, callsTo_of_callTo h (exec_rst_eq n s)⟩,
    fun _ => ⟨encoded_encode rfl, jumpsTo_of_jumpIf rfl⟩⟩

end Sys2Proof.Machine
end

section
/-! SUPPORT. Steps that only move PC on: what a step does with the instruction at PC, and a run over zero bytes (rules
R253, R330, R335). -/

namespace Sys2Proof.Machine

/-! ### One step -/

/-- A step runs the instruction the bytes at PC decode to and leaves what that answers (rule R330); O6 says this of the
outcome alone. -/
theorem execute_decoded {s : State} {i : Instr} {rest : List Byte} (hpc : s.pc.toNat < config.haltBoundary)
    (h : decode [s.mem.read s.pc.toNat, s.mem.read (s.pc.toNat + 1), s.mem.read (s.pc.toNat + 2)] = .ok i rest) :
    execute s =
      let s' := (s.setLastResult .cont).setPc (s.pc + BitVec.ofNat 16 (encode i).length)
      StepEnd.ofOutcome (exec i s') s' := by
  obtain ⟨row, hrow, hfetch⟩ := fetchOperands_of_decode hpc h
  rw [execute_row hpc hrow, hfetch]

/-- Only HLT changes the report of a step below the boundary, which starts as Continue. -/
theorem step_lastResult {s t : State} (hpc : s.pc.toNat < config.haltBoundary)
    (hop : s.mem.read s.pc.toNat ≠ 0x76) (hs : step s = .next t) : t.lastResult = .cont := by
  have hdef : s.mem.read s.pc.toNat ∉ undefinedOpcodes := by
    intro hund
    rw [(illegalOpcodeFault s hpc hund).1] at hs
    cases hs
  obtain ⟨i, -, hdec⟩ := decode_defined hdef (s.mem.read (s.pc.toNat + 1)) (s.mem.read (s.pc.toNat + 2)) []
  have hi : i ≠ .hlt := by
    rintro rfl
    exact hop (List.cons.inj (encodeInvertsDecode _ _ _ hdec).2).1
  rw [stepRunsDecodedInstruction s i _ hpc hdec] at hs
  exact exec_lastResult hs hi

theorem State.setLastResult_of_eq {s : State} {r : StepResult} (h : s.lastResult = r) : s.setLastResult r = s := by
  rw [← h]
  rfl

theorem encoded_nop : Encoded .nop [0x00] := encoded_encode rfl

/-- A step over a zero byte moves PC on by one; the report it sets is there already. -/
theorem execute_nop {s : State} (hr : s.lastResult = .cont) (hpc : s.pc.toNat < config.haltBoundary)
    (h0 : s.mem.read s.pc.toNat = 0x00) :
    execute s = { outcome := .next (s.setPc (s.pc + 1)), left := s.setPc (s.pc + 1) } := by
  have hdec := encoded_nop.2 [s.mem.read (s.pc.toNat + 1), s.mem.read (s.pc.toNat + 2)]
  rw [← h0] at hdec
  rw [execute_decoded hpc hdec, State.setLastResult_of_eq hr]
  rfl

/-! ### Runs -/

theorem run_succ_of_step {M : Host.Core} {s t : M.State} (h : M.step s = .next t) (n : Nat) :
    M.run (n + 1) s = M.run n t := by
  rw [Host.Core.run, h]

/-- `n` steps lead from `s` to `t` and end no run: a run from `s` goes on from `t` with `n` steps fewer. -/
def RunsThrough (n : Nat) (s t : State) : Prop :=
  core.run n s = .next t ∧ ∀ fuel, runToEnd (fuel + n) s = runToEnd fuel t

theorem RunsThrough.zero (s : State) : RunsThrough 0 s s := ⟨rfl, fun _ => rfl⟩

/-- A step that reports Continue goes before what follows it, in both kinds of run. -/
theorem RunsThrough.cons {n : Nat} {s t u : State} (hs : execute s = { outcome := .next t, left := t })
    (ht : t.lastResult = .cont) (h : RunsThrough n t u) : RunsThrough (n + 1) s u := by
  have hstep : core.step s = .next t := congrArg StepEnd.outcome hs
  refine ⟨?_, fun fuel => ?_⟩
  · exact (run_succ_of_step hstep n).trans h.1
  · rw [← h.2 fuel, ← Nat.add_assoc, runToEnd, hs]
    exact if_pos ht

/-- Zero bytes below the boundary are run through, one step each. -/
theorem runsThrough_nops {n : Nat} {s : State} (hr : s.lastResult = .cont)
    (hn : s.pc.toNat + n ≤ config.haltBoundary) (h0 : ∀ k, k < n → s.mem.read (s.pc.toNat + k) = 0x00) :
    RunsThrough n s (s.setPc (s.pc + BitVec.ofNat 16 n)) := by
  induction n generalizing s with
  | zero =>
    rw [BitVec.add_zero]
    exact RunsThrough.zero s
  | succ n ih =>
    have hpc : s.pc.toNat < config.haltBoundary := by omega
    have hnext := toNat_pc_add_one hpc
    have hrest : RunsThrough n (s.setPc (s.pc + 1)) (s.setPc (s.pc + 1 + BitVec.ofNat 16 n)) := by
      refine ih (s := s.setPc (s.pc + 1)) hr ?_ fun k hk => ?_
      · rw [State.setPc_pc]
        omega
      · rw [State.setPc_pc, State.setPc_mem, hnext, Nat.add_assoc, Nat.add_comm 1 k]
        exact h0 (k + 1) (Nat.succ_lt_succ hk)
    have hsum : s.pc + BitVec.ofNat 16 (n + 1) = s.pc + 1 + BitVec.ofNat 16 n := by
      rw [Nat.add_comm, BitVec.ofNat_add]
      exact (BitVec.add_assoc _ _ _).symm
    rw [hsum]
    exact .cons (execute_nop hr hpc (h0 0 n.succ_pos)) hr hrest

/-- A run that starts at or above the boundary ends with its first step. -/
theorem runToEnd_boundary {s : State} (h : config.haltBoundary ≤ s.pc.toNat) (fuel : Nat) :
    runToEnd (fuel + 1) s = some (execute s) := by
  rw [runToEnd, execute_boundary h]
  rfl

end Sys2Proof.Machine
end

section
/-! SUPPORT. The statements of the family 45_io_machine_control.md, settled. -/

namespace Sys2Proof.Machine

/-- Settles O9: at the boundary and at 0x76 the step is that of O10, and any other leaves Continue. -/
theorem onlyTwoWaysToHalt : Obligations.OnlyTwoWaysToHalt := by
  intro s t hs
  obtain ⟨hboundary, hhlt, -⟩ := haltingIsAResult
  by_cases hpc : config.haltBoundary ≤ s.pc.toNat
  · rw [(hboundary s hpc).1] at hs
    cases hs
    exact .inr (.inl ⟨hpc, rfl⟩)
  · rw [Nat.not_le] at hpc
    by_cases hop : s.mem.read s.pc.toNat = 0x76
    · rw [hhlt s hpc hop] at hs
      cases hs
      exact .inr (.inr ⟨hpc, hop, rfl⟩)
    · exact .inl (step_lastResult hpc hop hs)

/-- Settles O11: a run passes the zero bytes, and from reset what is left of it is the one step at the boundary. -/
theorem nopSlide : Obligations.NopSlide := by
  have hreset : RunsThrough 0x1000 State.reset (State.reset.setPc 0xD000) :=
    runsThrough_nops (n := 0x1000) rfl (by decide) fun _ _ => rfl
  have hend : config.haltBoundary ≤ (State.reset.setPc 0xD000).pc.toNat := by decide
  refine ⟨fun n s hr hn h0 => (runsThrough_nops hr hn h0).1,
    ⟨_, (hreset.2 1).trans (runToEnd_boundary hend 0), ?_⟩, hreset.2 0⟩
  rw [execute_boundary hend]
  rfl

end Sys2Proof.Machine
end

section
/-! SUPPORT. Hex literals (rules R279, R283): the prefixed and the suffixed form of a text of hex digits, and how a
buffer of either form is classified. -/

namespace Sys2Proof.Machine

/-! ### Digits -/

theorem toNat_lt_of_hexDigit {c : Char} (h : (hexDigit c).isSome) : c.toNat < 103 := by
  by_contra hc
  have hout : ∀ lo hi : Char, hi.toNat < 103 → charIn lo hi c = false := by
    intro lo hi hhi
    rw [charIn, decide_eq_false (p := c.toNat ≤ hi.toNat) (by omega), Bool.and_false]
  rw [hexDigit, hout _ _ (by decide), hout _ _ (by decide), hout _ _ (by decide)] at h
  cases h

/-- A hex digit is none of the letters that make a literal, in either case. -/
theorem lowerChar_of_hexDigit {c : Char} (h : (hexDigit c).isSome) : lowerChar c ≠ 'x' ∧ lowerChar c ≠ 'h' := by
  have hall : ∀ k < 103, (hexDigit (Char.ofNat k)).isSome →
      lowerChar (Char.ofNat k) ≠ 'x' ∧ lowerChar (Char.ofNat k) ≠ 'h' := by decide
  have hc := hall c.toNat (toNat_lt_of_hexDigit h)
  rw [Char.ofNat_toNat] at hc
  exact hc h

theorem hexDigit_of_readHex {digits : Text} {value n : Nat} (h : readHex value digits = some n) :
    ∀ c ∈ digits, (hexDigit c).isSome := by
  induction digits generalizing value with
  | nil => exact fun _ hc => absurd hc List.not_mem_nil
  | cons d rest ih =>
    rw [readHex] at h
    split at h
    · next hd => exact List.forall_mem_cons.mpr ⟨hd ▸ rfl, ih h⟩
    · cases h

/-! ### The two forms -/

theorem prefixedValue_eq_none {t : Text} (h : ∀ c ∈ t, lowerChar c ≠ 'x') : prefixedValue t = none := by
  unfold prefixedValue
  split
  · next x _ _ => exact if_neg (h x (by simp))
  · rfl

theorem suffixedValue_append (front : Text) (c : Char) :
    suffixedValue (front ++ [c]) = if front ≠ [] ∧ lowerChar c = 'h' then readHex 0 front else none := by
  rw [suffixedValue, List.reverse_append, List.reverse_singleton, List.singleton_append]
  cases hf : front.reverse with
  | nil => rw [List.reverse_eq_nil_iff.mp hf, if_neg fun hn => hn.1 rfl]
  | cons d rest =>
    have hne : front ≠ [] := by
      rintro rfl
      cases hf
    simp only [← hf, List.reverse_reverse, hne, ne_eq, not_false_eq_true, true_and]

section digits
variable {digits : Text} {n : Nat} (hne : digits ≠ []) (h : readHex 0 digits = some n)
include h

theorem prefixedValue_suffixed : prefixedValue (digits ++ ['h']) = none := by
  refine prefixedValue_eq_none fun c hc => ?_
  rcases List.mem_append.mp hc with hc | hc
  · exact (lowerChar_of_hexDigit (hexDigit_of_readHex h c hc)).1
  · rw [List.mem_singleton.mp hc]
    decide

include hne

theorem prefixedValue_prefixed : prefixedValue ('0' :: 'x' :: digits) = some n := by
  obtain ⟨c, rest, rfl⟩ := List.exists_cons_of_ne_nil hne
  exact h

theorem suffixedValue_suffixed : suffixedValue (digits ++ ['h']) = some n := by
  rw [suffixedValue_append, if_pos ⟨hne, by decide⟩, h]

theorem suffixedValue_prefixed : suffixedValue ('0' :: 'x' :: digits) = none := by
  have hlast := (lowerChar_of_hexDigit (hexDigit_of_readHex h _ (List.getLast_mem hne))).2
  have happ := suffixedValue_append ('0' :: 'x' :: digits.dropLast) (digits.getLast hne)
  rw [List.cons_append, List.cons_append, List.dropLast_append_getLast] at happ
  rw [happ, if_neg fun hl => hlast hl.2]

theorem hexVal_prefixed : hexVal ('0' :: 'x' :: digits) = some n := by
  rw [hexVal, prefixedValue_prefixed hne h]

theorem hexVal_suffixed : hexVal (digits ++ ['h']) = some n := by
  rw [hexVal, prefixedValue_suffixed h, suffixedValue_suffixed hne h]

end digits

/-! ### Classification -/

theorem lowercase_prefixed_ne {digits : Text} (hne : digits ≠ []) :
    lowercase ('0' :: 'x' :: digits) ≠ ['0', 'x'] :=
  fun h => hne (List.map_eq_nil_iff.mp (List.cons.inj (List.cons.inj h).2).2)

theorem lowercase_suffixed_ne (digits : Text) : lowercase (digits ++ ['h']) ≠ ['0', 'x'] := by
  intro h
  rw [lowercase, List.map_append] at h
  exact absurd (List.append_inj_right' (t₂ := ['x']) (s₂ := ['0']) h rfl) (by decide)

/-- A buffer with a value of 16 bits is a literal. -/
theorem classify_of_hexVal {t : Text} {n : Nat} (ht : lowercase t ≠ ['0', 'x']) (h : hexVal t = some n)
    (hn : n ≤ 0xFFFF) : classify t = .ok (.hexLiteral t) := by
  have hfits : fits16 (some n) = true := decide_eq_true hn
  rw [hexVal] at h
  split at h
  · next hp => rw [classify, if_neg ht, hp, h, hfits, Bool.true_or, if_pos rfl]
  · rw [classify, if_neg ht, h, hfits, Bool.or_true, if_pos rfl]

/-- A buffer whose value in either form does not fit 16 bits is a name, like one that has no value. -/
theorem classify_of_not_fits {t : Text} (ht : lowercase t ≠ ['0', 'x']) (hp : fits16 (prefixedValue t) = false)
    (hs : fits16 (suffixedValue t) = false) : classify t = .ok (.name t) := by
  rw [classify, if_neg ht, hp, hs, Bool.or_false, if_neg Bool.false_ne_true]

theorem fits16_eq_false {n : Nat} (hn : 0xFFFF < n) : fits16 (some n) = false := decide_eq_false (Nat.not_le.mpr hn)

end Sys2Proof.Machine
end

section
/-! SUPPORT. One step of pass 1, said once (rules R290 to R302): what each rule accepts and what it then answers, that
every other token is a failure of the rule, and what the step keeps of the encoder's invariant. -/

namespace Sys2Proof.Machine

/-! ### What a rule accepts -/

/-- The tokens that the rule of an expected state accepts, the state having been popped, and the state it answers (rules
R291 to R300). -/
inductive Accepts : ExpectedState → EncoderState → Token → EncoderState → Prop
  | mnemonic {s : EncoderState} {x : Text} {e : MnemonicEntry} (hx : findMnemonic x = some e) :
      Accepts .search s (.name x)
        ({ s with cur := some e, accOp := e.base, accImm := [], fresh := true }.expect
          (e.states ++ [ExpectedState.append]))
  | label {s : EncoderState} {x : Text} (hx : findMnemonic x = none) (haddr : s.addr < addressLimit) :
      Accepts .search s (.name x)
        ({ s with labels := declareLabel s.labels x (BitVec.ofNat 16 s.addr) }.expect [.colon])
  | emptyLine {s : EncoderState} : Accepts .search s .newLine (s.expect [.search])
  | colon {s : EncoderState} : Accepts .colon s .colon (s.expect [.search])
  | comma {s : EncoderState} : Accepts .comma s .comma s
  | destination {s : EncoderState} {x : Text} {code : Byte} (hx : lookupText registerTable (lowercase x) = some code) :
      Accepts .destinationRegister s (.name x) { s with accOp := s.accOp ||| code <<< 3 }
  | source {s : EncoderState} {x : Text} {code : Byte} (hx : lookupText registerTable (lowercase x) = some code)
      (notMM : (s.isMov && s.accOp ||| code == 0x76) = false) :
      Accepts .sourceRegister s (.name x) { s with accOp := s.accOp ||| code }
  | pair {s : EncoderState} {x : Text} {code : Byte} (hx : lookupText s.acceptedPairs (lowercase x) = some code) :
      Accepts .registerPair s (.name x) { s with accOp := s.accOp ||| code <<< 4 }
  | immediate8 {s : EncoderState} {x : Text} {v : Nat} (hx : hexValUpTo 0xFF x = some v) :
      Accepts .immediate8 s (.hexLiteral x) { s with accImm := [BitVec.ofNat 8 v] }
  | immediate16 {s : EncoderState} {x : Text} {v : Nat} (hx : hexValUpTo 0xFFFF x = some v) :
      Accepts .immediate16 s (.hexLiteral x) { s with accImm := wordBytes (BitVec.ofNat 16 v) }
  | reference {s : EncoderState} {x : Text} :
      Accepts .immediate16 s (.name x)
        { s with unres := s.unres ++ [(s.buf.length + 1, x)], accImm := wordBytes 0 }
  | restart {s : EncoderState} {x : Text} {v : Nat} (hx : hexValUpTo 7 x = some v) :
      Accepts .rstImmediate s (.hexLiteral x) { s with accOp := s.accOp ||| BitVec.ofNat 8 v <<< 3 }
  | commit {s : EncoderState} (hfits : s.addr + (1 + s.accImm.length) ≤ addressLimit) :
      Accepts .append s .newLine
        ({ s with buf := s.buf ++ s.accOp :: s.accImm, addr := s.addr + (1 + s.accImm.length), cur := none }.expect
          [.search])

/-- The two answers of a rule: it accepts the token, or it fails at it, and never for a missing terminator (rules R291
to R300, R310). -/
inductive RuleAnswer (st : ExpectedState) (s : EncoderState) (t : PosToken) : Except EncoderError EncoderState → Prop
  | accepts {s' : EncoderState} (h : Accepts st s t.tok s') : RuleAnswer st s t (.ok s')
  | fails {kind : ErrorKind} (h : kind ≠ .missingTerminator) : RuleAnswer st s t (failAt kind t)

theorem onSearch_answer (s : EncoderState) (t : PosToken) : RuleAnswer .search s t (onSearch s t) := by
  obtain ⟨tok, pos⟩ := t
  unfold onSearch
  cases tok with
  | name x =>
    dsimp only
    split
    · next hx => exact .accepts (.mnemonic hx)
    · next hx =>
      split
      · exact .fails nofun
      · next haddr => exact .accepts (.label hx (Nat.lt_of_not_le haddr))
  | newLine => exact .accepts .emptyLine
  | hexLiteral _ => exact .fails nofun
  | comma => exact .fails nofun
  | colon => exact .fails nofun

theorem onColon_answer (s : EncoderState) (t : PosToken) : RuleAnswer .colon s t (onColon s t) := by
  obtain ⟨tok, pos⟩ := t
  cases tok with
  | colon => exact .accepts .colon
  | _ => exact .fails nofun

theorem onComma_answer (s : EncoderState) (t : PosToken) : RuleAnswer .comma s t (onComma s t) := by
  obtain ⟨tok, pos⟩ := t
  cases tok with
  | comma => exact .accepts .comma
  | _ => exact .fails nofun

theorem onDestination_answer (s : EncoderState) (t : PosToken) :
    RuleAnswer .destinationRegister s t (onDestination s t) := by
  obtain ⟨tok, pos⟩ := t
  unfold onDestination
  cases tok with
  | name x =>
    dsimp only
    split
    · next hx => exact .accepts (.destination hx)
    · exact .fails nofun
  | _ => exact .fails nofun

theorem onSource_answer (s : EncoderState) (t : PosToken) : RuleAnswer .sourceRegister s t (onSource s t) := by
  obtain ⟨tok, pos⟩ := t
  unfold onSource
  cases tok with
  | name x =>
    dsimp only
    split
    · next hx =>
      split
      · exact .fails nofun
      · next notMM => exact .accepts (.source hx (Bool.eq_false_iff.mpr notMM))
    · exact .fails nofun
  | _ => exact .fails nofun

theorem onPair_answer (s : EncoderState) (t : PosToken) : RuleAnswer .registerPair s t (onPair s t) := by
  obtain ⟨tok, pos⟩ := t
  unfold onPair
  cases tok with
  | name x =>
    dsimp only
    split
    · next hx => exact .accepts (.pair hx)
    · exact .fails nofun
  | _ => exact .fails nofun

theorem onImmediate8_answer (s : EncoderState) (t : PosToken) : RuleAnswer .immediate8 s t (onImmediate8 s t) := by
  obtain ⟨tok, pos⟩ := t
  unfold onImmediate8
  cases tok with
  | hexLiteral x =>
    dsimp only
    split
    · next hx => exact .accepts (.immediate8 hx)
    · exact .fails nofun
  | _ => exact .fails nofun

theorem onImmediate16_answer (s : EncoderState) (t : PosToken) :
    RuleAnswer .immediate16 s t (onImmediate16 s t) := by
  obtain ⟨tok, pos⟩ := t
  unfold onImmediate16
  cases tok with
  | hexLiteral x =>
    dsimp only
    split
    · next hx => exact .accepts (.immediate16 hx)
    · exact .fails nofun
  | name x => exact .accepts .reference
  | _ => exact .fails nofun

theorem onRst_answer (s : EncoderState) (t : PosToken) : RuleAnswer .rstImmediate s t (onRst s t) := by
  obtain ⟨tok, pos⟩ := t
  unfold onRst
  cases tok with
  | hexLiteral x =>
    dsimp only
    split
    · next hx => exact .accepts (.restart hx)
    · exact .fails nofun
  | _ => exact .fails nofun

theorem onAppend_answer (s : EncoderState) (t : PosToken) : RuleAnswer .append s t (onAppend s t) := by
  obtain ⟨tok, pos⟩ := t
  unfold onAppend
  cases tok with
  | newLine =>
    dsimp only
    split
    · exact .fails nofun
    · next hfits => exact .accepts (.commit (Nat.le_of_not_lt hfits))
  | _ => exact .fails nofun

theorem onState_answer (st : ExpectedState) (s : EncoderState) (t : PosToken) :
    RuleAnswer st s t (onState st s t) := by
  cases st with
  | search => exact onSearch_answer s t
  | colon => exact onColon_answer s t
  | comma => exact onComma_answer s t
  | destinationRegister => exact onDestination_answer s t
  | sourceRegister => exact onSource_answer s t
  | registerPair => exact onPair_answer s t
  | immediate8 => exact onImmediate8_answer s t
  | immediate16 => exact onImmediate16_answer s t
  | rstImmediate => exact onRst_answer s t
  | append => exact onAppend_answer s t

/-- A rule has one answer to a token, so what it accepts it answers. -/
theorem Accepts.onState {st : ExpectedState} {s s' : EncoderState} {t : PosToken} (h : Accepts st s t.tok s') :
    onState st s t = .ok s' := by
  obtain ⟨tok, pos⟩ := t
  cases h with
  | mnemonic hx => simp only [Machine.onState, onSearch, hx]
  | label hx haddr => simp only [Machine.onState, onSearch, hx, if_neg (Nat.not_le.mpr haddr)]
  | emptyLine => rfl
  | colon => rfl
  | comma => rfl
  | destination hx => simp only [Machine.onState, onDestination, hx]
  | source hx notMM => simp only [Machine.onState, onSource, hx, notMM, if_neg Bool.false_ne_true]
  | pair hx => simp only [Machine.onState, onPair, hx]
  | immediate8 hx => simp only [Machine.onState, onImmediate8, hx]
  | immediate16 hx => simp only [Machine.onState, onImmediate16, hx]; rfl
  | reference => rfl
  | restart hx => simp only [Machine.onState, onRst, hx]
  | commit hfits => simp only [Machine.onState, onAppend, if_neg (Nat.not_lt.mpr hfits)]

/-! ### One step -/

/-- A step that succeeds pops a state whose rule accepts the token. -/
theorem passOneStep_ok {s s' : EncoderState} {t : PosToken} (h : passOneStep s t = .ok s') :
    ∃ st q, s.queue = st :: q ∧ Accepts st { s with fresh := false, queue := q } t.tok s' := by
  rw [passOneStep] at h
  split at h
  · cases h
  split at h
  · cases h
  next st q hq =>
  have ha := onState_answer st { s with fresh := false, queue := q } t
  rw [h] at ha
  cases ha with
  | accepts ha => exact ⟨st, q, hq, ha⟩

/-- A step never fails for a missing terminator: only the end of the input does (rule R301). -/
theorem passOneStep_error {s : EncoderState} {t : PosToken} {e : EncoderError} (h : passOneStep s t = .error e) :
    e.kind ≠ .missingTerminator := by
  rw [passOneStep] at h
  split at h
  · cases h
    nofun
  split at h
  · cases h
    nofun
  next st q hq =>
  have ha := onState_answer st { s with fresh := false, queue := q } t
  rw [h] at ha
  cases ha with
  | fails hk => exact hk

/-- Unless a colon comes right after a mnemonic, a step is the rule of the state in front (rules R290, R302). -/
theorem Accepts.passOneStep {st : ExpectedState} {q : List ExpectedState} {s s' : EncoderState} {t : PosToken}
    (hq : s.queue = st :: q) (hfresh : s.fresh = false ∨ t.tok ≠ .colon)
    (h : Accepts st { s with fresh := false, queue := q } t.tok s') : passOneStep s t = .ok s' := by
  have hcheck : (s.fresh && t.tok == .colon) = false := by
    rcases hfresh with hf | ht
    · rw [hf, Bool.false_and]
    · rw [beq_eq_false_iff_ne.mpr ht, Bool.and_false]
  rw [Machine.passOneStep, hcheck, if_neg Bool.false_ne_true, hq]
  exact h.onState

/-- An operand changes neither what is expected after it nor what is committed (rules R293 to R299). -/
theorem Accepts.keeps_of_operand {st : ExpectedState} {s s' : EncoderState} {tok : Token} (h : Accepts st s tok s')
    (hst : st.endsQueue = false) :
    s'.queue = s.queue ∧ s'.cur = s.cur ∧ s'.buf = s.buf ∧ s'.addr = s.addr := by
  cases h with
  | mnemonic | label | emptyLine | colon | commit => cases hst
  | _ => exact ⟨rfl, rfl, rfl, rfl⟩

/-! ### The invariant -/

theorem queueWf_cons (st : ExpectedState) (q : List ExpectedState) :
    queueWf (st :: q) = true ↔ if st.endsQueue then q = [] else queueWf q = true := by
  cases q with
  | nil => cases h : st.endsQueue <;> simp [queueWf, h]
  | cons st' q => cases h : st.endsQueue <;> simp [queueWf, h]

theorem queueWf_ending {st : ExpectedState} {q : List ExpectedState} (h : queueWf (st :: q) = true)
    (hst : st.endsQueue = true) : q = [] := by
  rwa [queueWf_cons, if_pos hst] at h

theorem queueWf_operand {st : ExpectedState} {q : List ExpectedState} (h : queueWf (st :: q) = true)
    (hst : st.endsQueue = false) : queueWf q = true := by
  rwa [queueWf_cons, if_neg (Bool.eq_false_iff.mp hst)] at h

/-- The entries hold operand states alone (rule R280). -/
theorem queueWf_states : ∀ e ∈ mnemonicTable, queueWf (e.states ++ [.append]) = true := by decide

theorem mem_mnemonicTable {x : Text} {e : MnemonicEntry} (h : findMnemonic x = some e) : e ∈ mnemonicTable :=
  List.mem_of_find?_eq_some h

theorem EncoderState.wf_iff {cfg : Config} {s : EncoderState} :
    s.wf cfg = true ↔
      queueWf s.queue = true ∧ s.addr = cfg.codeOrigin.toNat + s.buf.length ∧ s.addr ≤ addressLimit := by
  rw [EncoderState.wf, Bool.and_eq_true, Bool.and_eq_true, beq_iff_eq, decide_eq_true_iff, and_assoc]

theorem EncoderState.initial_wf (cfg : Config) : (EncoderState.initial cfg).wf cfg = true :=
  EncoderState.wf_iff.mpr ⟨rfl, rfl, Nat.le_of_lt cfg.codeOrigin.isLt⟩

/-- An ending state leaves the queue empty for what its rule expects next; an operand state shortens it (rule R290). -/
theorem Accepts.keeps_wf {cfg : Config} {st : ExpectedState} {q : List ExpectedState} {s s' : EncoderState}
    {tok : Token} (h : Accepts st { s with fresh := false, queue := q } tok s') (hq : queueWf (st :: q) = true)
    (haddr : s.addr = cfg.codeOrigin.toNat + s.buf.length) (hlimit : s.addr ≤ addressLimit) :
    s'.wf cfg = true := by
  rw [EncoderState.wf_iff]
  cases hst : st.endsQueue with
  | false =>
    obtain ⟨hqueue, -, hbuf, hkeep⟩ := h.keeps_of_operand hst
    rw [hqueue, hbuf, hkeep]
    exact ⟨queueWf_operand hq hst, haddr, hlimit⟩
  | true =>
    obtain rfl := queueWf_ending hq hst
    cases h with
    | mnemonic hx => exact ⟨queueWf_states _ (mem_mnemonicTable hx), haddr, hlimit⟩
    | label | emptyLine | colon => exact ⟨rfl, haddr, hlimit⟩
    | commit hfits =>
      refine ⟨rfl, ?_, hfits⟩
      simp only [EncoderState.expect, List.length_append, List.length_cons, haddr]
      omega
    | _ => cases hst

theorem passOneStep_wf {cfg : Config} {s s' : EncoderState} {t : PosToken} (hwf : s.wf cfg = true)
    (h : passOneStep s t = .ok s') : s'.wf cfg = true := by
  obtain ⟨hqueue, haddr, hlimit⟩ := EncoderState.wf_iff.mp hwf
  obtain ⟨st, q, hq, hacc⟩ := passOneStep_ok h
  exact hacc.keeps_wf (hq ▸ hqueue) haddr hlimit

/-- The end of a line ends the statement on it, or the step fails (rules R291, R300). -/
theorem queue_of_newLine {cfg : Config} {s s' : EncoderState} {t : PosToken} (hwf : s.wf cfg = true)
    (ht : t.tok = .newLine) (h : passOneStep s t = .ok s') : s'.queue = [.search] := by
  obtain ⟨hqueue, -, -⟩ := EncoderState.wf_iff.mp hwf
  obtain ⟨st, q, hq, hacc⟩ := passOneStep_ok h
  rw [hq] at hqueue
  rw [ht] at hacc
  cases hacc with
  | emptyLine | commit =>
    obtain rfl := queueWf_ending hqueue rfl
    rfl

/-! ### Pass 1 -/

/-- What every step keeps, pass 1 keeps. -/
theorem passOneTokens_keeps {cfg : Config} {P : EncoderState → Prop}
    (hstep : ∀ s s' t, P s → passOneStep s t = .ok s' → P s') {tokens : List PosToken} {s s' : EncoderState}
    (hs : P s) (h : passOneTokens cfg s tokens = .ok s') : P s' := by
  induction tokens generalizing s with
  | nil =>
    cases h
    exact hs
  | cons t rest ih =>
    rw [passOneTokens] at h
    split at h
    · next u hu => exact ih (hstep s u t hs (passOneStepWith_ok hu)) h
    · cases h

/-- Pass 1 succeeds when its tokens do and the queue is back to its first form (rule R301). -/
theorem passOne_ok {cfg : Config} {tokens : List PosToken} {s : EncoderState} (h : passOne cfg tokens = .ok s) :
    passOneTokens cfg (.initial cfg) tokens = .ok s ∧ s.queue = [.search] := by
  rw [passOne] at h
  split at h
  · next hrun =>
    split at h
    · next hq =>
      cases h
      exact ⟨hrun, hq⟩
    · cases h
  · cases h

theorem passOne_wf {cfg : Config} {tokens : List PosToken} {s : EncoderState} (h : passOne cfg tokens = .ok s) :
    s.wf cfg = true :=
  passOneTokens_keeps (P := fun s => s.wf cfg = true) (fun _ _ _ => passOneStep_wf) (EncoderState.initial_wf cfg)
    (passOne_ok h).1

end Sys2Proof.Machine
end

section
/-! SUPPORT. Pass 2 (rule R305): what one reference writes, and what a list of them leaves. -/

namespace Sys2Proof.Machine

/-! ### One reference -/

@[simp] theorem length_patchWord (buf : List Byte) (off : Nat) (v : Word) :
    (patchWord buf off v).length = buf.length := by
  rw [patchWord, List.length_set, List.length_set]

theorem patchWord_other (buf : List Byte) (v : Word) {off k : Nat} (h : k ≠ off ∧ k ≠ off + 1) :
    (patchWord buf off v)[k]? = buf[k]? := by
  rw [patchWord, List.getElem?_set_ne h.2.symm, List.getElem?_set_ne h.1.symm]

theorem patchWord_low {buf : List Byte} {off : Nat} (v : Word) (h : off < buf.length) :
    (patchWord buf off v)[off]? = some (loByte v) := by
  rw [patchWord, List.getElem?_set_ne (Nat.succ_ne_self off), List.getElem?_set_self h]

theorem patchWord_high {buf : List Byte} {off : Nat} (v : Word) (h : off + 1 < buf.length) :
    (patchWord buf off v)[off + 1]? = some (hiByte v) := by
  rw [patchWord, List.getElem?_set_self (by rwa [List.length_set])]

/-! ### All references -/

section passTwo
variable {labels : List (Text × Word)} {unres : List (Nat × Text)} {buf out : List Byte}

theorem passTwo_cons {off : Nat} {name : Text} {v : Word} (h : lookupText labels name = some v) :
    passTwo labels ((off, name) :: unres) buf = passTwo labels unres (patchWord buf off v) := by
  rw [passTwo, h]

theorem passTwo_missing (off : Nat) {name : Text} (h : lookupText labels name = none) :
    passTwo labels ((off, name) :: unres) buf = .error { kind := .labelNotDefined name, pos := none } := by
  rw [passTwo, h]

theorem passTwo_cons_ok {off : Nat} {name : Text} (h : passTwo labels ((off, name) :: unres) buf = .ok out) :
    ∃ v, lookupText labels name = some v ∧ passTwo labels unres (patchWord buf off v) = .ok out := by
  cases hv : lookupText labels name with
  | none =>
    rw [passTwo_missing off hv] at h
    cases h
  | some v => exact ⟨v, rfl, passTwo_cons hv ▸ h⟩

theorem passTwo_ok (labels : List (Text × Word)) {unres : List (Nat × Text)} (buf : List Byte)
    (h : ∀ r ∈ unres, ∃ v, lookupText labels r.2 = some v) : ∃ out, passTwo labels unres buf = .ok out := by
  induction unres generalizing buf with
  | nil => exact ⟨buf, rfl⟩
  | cons r rest ih =>
    obtain ⟨⟨v, hv⟩, hrest⟩ := List.forall_mem_cons.mp h
    rw [passTwo_cons hv]
    exact ih _ hrest

/-- Pass 2 fails for nothing but a name that is not declared. -/
theorem passTwo_error {e : EncoderError} (h : passTwo labels unres buf = .error e) :
    ∃ name, e = { kind := .labelNotDefined name, pos := none } := by
  induction unres generalizing buf with
  | nil => cases h
  | cons r rest ih =>
    obtain ⟨off, name⟩ := r
    cases hv : lookupText labels name with
    | none =>
      rw [passTwo_missing off hv] at h
      cases h
      exact ⟨name, rfl⟩
    | some v =>
      rw [passTwo_cons hv] at h
      exact ih h

theorem passTwo_first_missing {before : List (Nat × Text)} (after : List (Nat × Text)) (off : Nat) {name : Text}
    (buf : List Byte) (hbefore : ∀ r ∈ before, ∃ v, lookupText labels r.2 = some v)
    (hname : lookupText labels name = none) :
    passTwo labels (before ++ (off, name) :: after) buf = .error { kind := .labelNotDefined name, pos := none } := by
  induction before generalizing buf with
  | nil => exact passTwo_missing off hname
  | cons r rest ih =>
    obtain ⟨⟨v, hv⟩, hrest⟩ := List.forall_mem_cons.mp hbefore
    rw [List.cons_append, passTwo_cons hv]
    exact ih _ hrest

theorem passTwo_length (h : passTwo labels unres buf = .ok out) : out.length = buf.length := by
  induction unres generalizing buf with
  | nil =>
    cases h
    rfl
  | cons r rest ih =>
    obtain ⟨v, -, hrest⟩ := passTwo_cons_ok h
    rw [ih hrest, length_patchWord]

theorem passTwo_other {k : Nat} (h : passTwo labels unres buf = .ok out)
    (hk : ∀ r ∈ unres, k ≠ r.1 ∧ k ≠ r.1 + 1) : out[k]? = buf[k]? := by
  induction unres generalizing buf with
  | nil =>
    cases h
    rfl
  | cons r rest ih =>
    obtain ⟨v, -, hout⟩ := passTwo_cons_ok h
    obtain ⟨hr, hrest⟩ := List.forall_mem_cons.mp hk
    rw [ih hout hrest, patchWord_other buf v hr]

/-- The pairs of bytes after the first one are not the first one, so the address it was given stays. -/
theorem passTwo_reference (h : passTwo labels unres buf = .ok out) (hin : ∀ r ∈ unres, r.1 + 1 < buf.length)
    (hapart : unres.Pairwise (fun r q => r.1 + 2 ≤ q.1)) :
    ∀ r ∈ unres, ∀ v, lookupText labels r.2 = some v →
      out[r.1]? = some (loByte v) ∧ out[r.1 + 1]? = some (hiByte v) := by
  induction unres generalizing buf with
  | nil => exact fun _ hr => absurd hr List.not_mem_nil
  | cons r rest ih =>
    obtain ⟨w, hw, hout⟩ := passTwo_cons_ok h
    obtain ⟨hfirst, hlater⟩ := List.pairwise_cons.mp hapart
    obtain ⟨hr, hrest⟩ := List.forall_mem_cons.mp hin
    refine List.forall_mem_cons.mpr ⟨fun v hv => ?_, ih hout (by simpa using hrest) hlater⟩
    obtain rfl : w = v := Option.some.inj (hw.symm.trans hv)
    have hlow : ∀ q ∈ rest, r.1 ≠ q.1 ∧ r.1 ≠ q.1 + 1 := fun q hq => by have := hfirst q hq; omega
    have hhigh : ∀ q ∈ rest, r.1 + 1 ≠ q.1 ∧ r.1 + 1 ≠ q.1 + 1 := fun q hq => by have := hfirst q hq; omega
    exact ⟨(passTwo_other hout hlow).trans (patchWord_low w (Nat.lt_of_succ_lt hr)),
      (passTwo_other hout hhigh).trans (patchWord_high w hr)⟩

end passTwo

/-! ### Both passes -/

theorem assembleWith_of_passOne_error {cfg : Config} {toks : List PosToken} {e : EncoderError}
    (h : passOne cfg toks = .error e) : assembleWith cfg toks = .error e := by
  rw [assembleWith, h]

theorem assembleWith_of_passOne_ok {cfg : Config} {toks : List PosToken} {s : EncoderState}
    (h : passOne cfg toks = .ok s) : assembleWith cfg toks = passTwo s.labels s.unres s.buf := by
  rw [assembleWith, h]

end Sys2Proof.Machine
end

section
/-! SUPPORT. Source text (rules R275 to R279, R301): each line ends with its token, so a program given as text ends no
line inside a statement. -/

namespace Sys2Proof.Machine

/-! ### The lexer's failures -/

/-- What the lexer fails for is the text itself (rules R277, R279). -/
def EncoderError.isLexical (e : EncoderError) : Prop := e.kind = .invalidCharacter ∨ e.kind = .emptyHexLiteral

/-- A bind that fails does so in its first part or in the second. -/
theorem bind_error {α β : Type} {x : Except EncoderError α} {f : α → Except EncoderError β} {e : EncoderError}
    (h : x.bind f = .error e) : x = .error e ∨ ∃ a, x = .ok a ∧ f a = .error e := by
  cases x with
  | error _ =>
    cases h
    exact .inl rfl
  | ok a => exact .inr ⟨a, rfl, h⟩

theorem classify_error {buf : Text} {kind : ErrorKind} (h : classify buf = .error kind) :
    kind = .emptyHexLiteral := by
  rw [classify] at h
  split at h
  · cases h
    rfl
  split at h <;> cases h

theorem flush_error {line start : Nat} {buf : Text} {e : EncoderError} (h : flush line start buf = .error e) :
    e.isLexical := by
  rw [flush.eq_def] at h
  split at h
  · cases h
  split at h
  · cases h
  · next hk =>
    cases h
    exact .inr (classify_error hk)

/-- A separator flushes the buffer before it and goes on after it; only these two can fail. -/
theorem isLexical_of_separator {line start : Nat} {buf : Text} {more : Except EncoderError (List PosToken)}
    {join : List PosToken → List PosToken → List PosToken} {e : EncoderError}
    (hmore : more = .error e → e.isLexical)
    (h : ((flush line start buf).bind fun before => more.bind fun after => .ok (join before after)) = .error e) :
    e.isLexical := by
  obtain h | ⟨_, -, h⟩ := bind_error h
  · exact flush_error h
  obtain h | ⟨_, -, h⟩ := bind_error h
  · exact hmore h
  · cases h

theorem scan_error {line : Nat} {chars : Text} {col start : Nat} {buf : Text} {e : EncoderError}
    (h : scan line col start buf chars = .error e) : e.isLexical := by
  induction chars generalizing col start buf with
  | nil => exact flush_error h
  | cons c rest ih =>
    unfold scan at h
    split at h
    · next heq => cases heq
    · exact flush_error h
    · exact flush_error h
    · next heq =>
      cases heq
      exact isLexical_of_separator ih h
    · next heq =>
      cases heq
      exact isLexical_of_separator ih h
    · next heq =>
      cases heq
      split at h
      · exact isLexical_of_separator ih h
      split at h
      · exact ih h
      · cases h
        exact .inl rfl

theorem scanLine_error {line : Nat} {chars : Text} {e : EncoderError} (h : scanLine line chars = .error e) :
    e.isLexical := by
  obtain h | ⟨_, -, h⟩ := bind_error h
  · exact scan_error h
  · cases h

theorem scanLines_error {line : Nat} {lines : List Text} {e : EncoderError}
    (h : scanLines line lines = .error e) : e.isLexical := by
  induction lines generalizing line with
  | nil => cases h
  | cons l rest ih =>
    obtain h | ⟨_, -, h⟩ := bind_error h
    · exact scanLine_error h
    obtain h | ⟨_, -, h⟩ := bind_error h
    · exact ih h
    · cases h

/-! ### The last token -/

/-- No tokens, or tokens of which the last ends a line (rule R275). -/
def EndsWithLine (toks : List PosToken) : Prop :=
  toks = [] ∨ ∃ front t, toks = front ++ [t] ∧ t.tok = .newLine

theorem scanLine_endsWithLine {line : Nat} {chars : Text} {toks : List PosToken}
    (h : scanLine line chars = .ok toks) : EndsWithLine toks := by
  obtain ⟨front, -, h⟩ := bind_ok h
  cases h
  exact .inr ⟨front, _, rfl, rfl⟩

theorem EndsWithLine.append {toks more : List PosToken} (h : EndsWithLine toks) (hmore : EndsWithLine more) :
    EndsWithLine (toks ++ more) := by
  obtain rfl | ⟨front, t, rfl, ht⟩ := hmore
  · rwa [List.append_nil]
  · exact .inr ⟨toks ++ front, t, (List.append_assoc ..).symm, ht⟩

theorem scanLines_endsWithLine {line : Nat} {lines : List Text} {toks : List PosToken}
    (h : scanLines line lines = .ok toks) : EndsWithLine toks := by
  induction lines generalizing line toks with
  | nil =>
    cases h
    exact .inl rfl
  | cons l rest ih =>
    obtain ⟨_, hl, h⟩ := bind_ok h
    obtain ⟨_, hrest, h⟩ := bind_ok h
    cases h
    exact (scanLine_endsWithLine hl).append (ih hrest)

/-! ### Pass 1 -/

/-- Tokens that end with a line leave the queue in its first form, from which the next statement starts. -/
theorem queue_of_endsWithLine {cfg : Config} {toks : List PosToken} (hline : EndsWithLine toks) {s s' : EncoderState}
    (hwf : s.wf cfg = true) (hq : s.queue = [.search]) (h : passOneTokens cfg s toks = .ok s') :
    s'.queue = [.search] := by
  obtain rfl | ⟨front, t, rfl, ht⟩ := hline
  · cases h
    exact hq
  clear hq
  induction front generalizing s with
  | nil =>
    rw [List.nil_append, passOneTokens] at h
    split at h
    · next u hu =>
      cases h
      exact queue_of_newLine hwf ht (passOneStepWith_ok hu)
    · cases h
  | cons t' rest ih =>
    rw [List.cons_append, passOneTokens] at h
    split at h
    · next u hu => exact ih (passOneStep_wf hwf (passOneStepWith_ok hu)) h
    · cases h

theorem strictStep_error {s : EncoderState} {t : PosToken} {e : EncoderError} (h : strictStep s t = .error e) :
    e.kind ≠ .missingTerminator := by
  rw [strictStep] at h
  split at h
  · cases h
    nofun
  · exact passOneStep_error h

theorem passOneTokens_error {cfg : Config} {toks : List PosToken} {s : EncoderState} {e : EncoderError}
    (h : passOneTokens cfg s toks = .error e) : e.kind ≠ .missingTerminator := by
  induction toks generalizing s with
  | nil => cases h
  | cons t rest ih =>
    rw [passOneTokens] at h
    split at h
    · exact ih h
    · next hstep =>
      cases h
      rw [passOneStepWith] at hstep
      split at hstep
      · exact strictStep_error hstep
      · exact passOneStep_error hstep

theorem passOne_error_of_endsWithLine {cfg : Config} {toks : List PosToken} (hline : EndsWithLine toks)
    {e : EncoderError} (h : passOne cfg toks = .error e) : e.kind ≠ .missingTerminator := by
  rw [passOne] at h
  split at h
  · next s hrun =>
    rw [if_pos (queue_of_endsWithLine hline (EncoderState.initial_wf cfg) rfl hrun)] at h
    cases h
  · next hrun =>
    cases h
    exact passOneTokens_error hrun

theorem assembleWith_error_of_endsWithLine {cfg : Config} {toks : List PosToken} (hline : EndsWithLine toks)
    {e : EncoderError} (h : assembleWith cfg toks = .error e) : e.kind ≠ .missingTerminator := by
  cases hone : passOne cfg toks with
  | error e' =>
    rw [assembleWith_of_passOne_error hone] at h
    cases h
    exact passOne_error_of_endsWithLine hline hone
  | ok s =>
    rw [assembleWith_of_passOne_ok hone] at h
    obtain ⟨name, rfl⟩ := passTwo_error h
    nofun

theorem assembleTextWith_error {cfg : Config} {source : Text} {e : EncoderError}
    (h : assembleTextWith cfg source = .error e) : e.kind ≠ .missingTerminator := by
  rw [assembleTextWith] at h
  split at h
  · next htoks => exact assembleWith_error_of_endsWithLine (scanLines_endsWithLine htoks) h
  · next htoks =>
    cases h
    obtain hk | hk := scanLines_error htoks <;> rw [hk] <;> nofun

end Sys2Proof.Machine
end

section
/-! SUPPORT. Runs of pass 1 over a list of tokens, whatever their positions: one line of a program at a time, a label, a
line that refers to one, and lines without operands (rules R291, R298, R300, R306). -/

namespace Sys2Proof.Machine

/-! ### Runs -/

/-- Pass 1 goes from one state over a list of tokens to another, each token accepted by the rule of the state in front
(rules R290, R302). -/
inductive Reads : EncoderState → List Token → EncoderState → Prop
  | nil {s : EncoderState} : Reads s [] s
  | cons {s u s' : EncoderState} {st : ExpectedState} {q : List ExpectedState} {tok : Token} {toks : List Token}
      (hq : s.queue = st :: q) (hfresh : s.fresh = false ∨ tok ≠ .colon)
      (head : Accepts st { s with fresh := false, queue := q } tok u) (tail : Reads u toks s') :
      Reads s (tok :: toks) s'

theorem Reads.append {s u s' : EncoderState} {ts ts' : List Token} (h : Reads s ts u) (h' : Reads u ts' s') :
    Reads s (ts ++ ts') s' := by
  induction h with
  | nil => exact h'
  | cons hq hfresh head _ ih => exact .cons hq hfresh head (ih h')

theorem Reads.passOneTokens {s s' : EncoderState} {ts : List Token} (h : Reads s ts s') {toks : List PosToken}
    (htoks : toks.map PosToken.tok = ts) : passOneTokens config s toks = .ok s' := by
  induction h generalizing toks with
  | nil =>
    rw [List.map_eq_nil_iff.mp htoks]
    rfl
  | cons hq hfresh head _ ih =>
    obtain ⟨t, rest, rfl, rfl, hrest⟩ := List.map_eq_cons_iff.mp htoks
    rw [passOneTokens_cons (head.passOneStep hq hfresh)]
    exact ih hrest

/-! ### Lines -/

/-- The tokens are read up to the start of a statement, and leave these labels, references and bytes (rules R284,
R291). -/
def ReadsLines (ts : List Token) (labels : List (Text × Word)) (unres : List (Nat × Text)) (buf : List Byte) : Prop :=
  ∃ s, Reads (.initial config) ts s ∧ s.queue = [.search] ∧ s.labels = labels ∧ s.unres = unres ∧ s.buf = buf ∧
    s.addr = 0xC000 + buf.length

theorem ReadsLines.start : ReadsLines [] [] [] [] := ⟨_, .nil, rfl, rfl, rfl, rfl, rfl⟩

section lines
variable {ts : List Token} {labels : List (Text × Word)} {unres : List (Nat × Text)} {buf : List Byte}
  (h : ReadsLines ts labels unres buf) {x : Text}
include h

/-- Lines that are read go to pass 2. -/
theorem ReadsLines.assemble {toks : List PosToken} (htoks : toks.map PosToken.tok = ts) :
    assemble toks = passTwo labels unres buf := by
  obtain ⟨s, hrun, hq, rfl, rfl, rfl, -⟩ := h
  refine assembleWith_of_passOne_ok ?_
  rw [passOne, hrun.passOneTokens htoks]
  exact if_pos hq

theorem ReadsLines.emptyLine : ReadsLines (ts ++ [.newLine]) labels unres buf := by
  obtain ⟨s, hrun, hq, rfl, rfl, rfl, haddr⟩ := h
  exact ⟨_, hrun.append (.cons hq (.inr nofun) .emptyLine .nil), rfl, rfl, rfl, rfl, haddr⟩

theorem ReadsLines.label (hx : findMnemonic x = none) (hfits : buf.length < 0x4000) :
    ReadsLines (ts ++ [.name x, .colon]) (declareLabel labels x (BitVec.ofNat 16 (0xC000 + buf.length))) unres buf := by
  obtain ⟨s, hrun, hq, rfl, rfl, rfl, haddr⟩ := h
  have hlimit : s.addr < addressLimit := haddr ▸ Nat.add_lt_add_left hfits 0xC000
  exact ⟨_, hrun.append (.cons hq (.inr nofun) (.label hx hlimit) (.cons rfl (.inl rfl) .colon .nil)), rfl,
    congrArg (fun a => declareLabel s.labels x (BitVec.ofNat 16 a)) haddr, rfl, rfl, haddr⟩

/-- The line of an instruction without operands commits its base opcode. -/
theorem ReadsLines.plainLine {name : Text} {base : Byte} {pairs : List (Text × Byte)}
    (hx : findMnemonic x = some ⟨name, base, [], pairs⟩) (hfits : buf.length < 0x4000) :
    ReadsLines (ts ++ [.name x, .newLine]) labels unres (buf ++ [base]) := by
  obtain ⟨s, hrun, hq, rfl, rfl, rfl, haddr⟩ := h
  have hlimit : s.addr + 1 ≤ addressLimit := haddr ▸ Nat.add_le_add_left hfits 0xC000
  refine ⟨_, hrun.append (.cons hq (.inr nofun) (.mnemonic hx) (.cons rfl (.inr nofun) (.commit hlimit) .nil)), rfl,
    rfl, rfl, rfl, ?_⟩
  rw [List.length_append]
  exact congrArg (· + 1) haddr

/-- The line of an instruction with an address commits its base opcode and two bytes for the address of the name. -/
theorem ReadsLines.referenceLine {m name : Text} {base : Byte} {pairs : List (Text × Byte)}
    (hm : findMnemonic m = some ⟨name, base, [.immediate16], pairs⟩) (x : Text) (hfits : buf.length + 3 ≤ 0x4000) :
    ReadsLines (ts ++ [.name m, .name x, .newLine]) labels (unres ++ [(buf.length + 1, x)])
      (buf ++ [base, 0x00, 0x00]) := by
  obtain ⟨s, hrun, hq, rfl, rfl, rfl, haddr⟩ := h
  have hlimit : s.addr + 3 ≤ addressLimit := haddr ▸ Nat.add_le_add_left hfits 0xC000
  refine ⟨_, hrun.append (.cons hq (.inr nofun) (.mnemonic hm)
    (.cons rfl (.inr nofun) .reference (.cons rfl (.inr nofun) (.commit hlimit) .nil))), rfl, rfl, rfl, rfl, ?_⟩
  rw [List.length_append]
  exact congrArg (· + 3) haddr

end lines

/-! ### The label table -/

/-- A name has the address it was declared with last (rule R306). -/
theorem lookupText_declareLabel (labels : List (Text × Word)) (x : Text) (v : Word) :
    lookupText (declareLabel labels x v) x = some v := by
  induction labels with
  | nil => exact if_pos rfl
  | cons row rest ih =>
    obtain ⟨y, w⟩ := row
    rw [declareLabel, List.filter_cons]
    split
    · next hy =>
      rw [List.cons_append, lookupText, if_neg (bne_iff_ne.mp hy)]
      exact ih
    · exact ih

end Sys2Proof.Machine
end

section
/-! SUPPORT. What pass 1 has committed is whole instructions, and stays so when pass 2 overwrites their operand words
(rules R300, R305, R317). -/

namespace Sys2Proof.Machine

/-! ### Whole instructions -/

/-- Well-formed instructions one after another, and the offsets in them that pass 2 may write an address to: each is
that of the operand word of an instruction. -/
inductive WholeInstrs : List Byte → List Nat → Prop
  | nil : WholeInstrs [] []
  | instr {buf : List Byte} {offs : List Nat} {i : Instr} (h : WholeInstrs buf offs) (hwf : i.wf = true) :
      WholeInstrs (buf ++ encode i) offs
  | reference {buf : List Byte} {offs : List Nat} {op : Byte} {row : OpcodeRow} (v : Word) (h : WholeInstrs buf offs)
      (hrow : findRow op = some row) (hf : row.format = .f3) :
      WholeInstrs (buf ++ op :: wordBytes v) (offs ++ [buf.length + 1])

section WholeInstrs
variable {buf : List Byte} {offs : List Nat}

/-- The bytes of a row are those of an instruction, whatever its operands. -/
theorem WholeInstrs.row {op : Byte} {row : OpcodeRow} (h : WholeInstrs buf offs) (hrow : findRow op = some row)
    (d8 : Byte) (imm : Word) : WholeInstrs (buf ++ op :: operandBytesOf row.format d8 imm) offs :=
  encode_build hrow d8 imm ▸ h.instr (wf_build hrow d8 imm)

theorem WholeInstrs.exists_instrs (h : WholeInstrs buf offs) :
    ∃ is : List Instr, (∀ i ∈ is, i.wf = true) ∧ buf = is.flatMap encode := by
  induction h with
  | nil => exact ⟨[], fun _ hi => absurd hi List.not_mem_nil, rfl⟩
  | @instr _ _ i _ hwf ih =>
    obtain ⟨is, his, rfl⟩ := ih
    exact ⟨is ++ [i], List.forall_mem_append.mpr ⟨his, by simpa using hwf⟩, by simp⟩
  | @reference _ _ op row v _ hrow hf ih =>
    obtain ⟨is, his, rfl⟩ := ih
    have henc := encode_build hrow 0 v
    rw [hf, operandBytesOf] at henc
    exact ⟨is ++ [row.build op 0 v], List.forall_mem_append.mpr ⟨his, by simpa using wf_build hrow 0 v⟩,
      by rw [List.flatMap_append, List.flatMap_singleton, henc]⟩

theorem WholeInstrs.add_one_lt (h : WholeInstrs buf offs) : ∀ off ∈ offs, off + 1 < buf.length := by
  induction h with
  | nil => exact fun _ ho => absurd ho List.not_mem_nil
  | instr _ _ ih =>
    intro off ho
    rw [List.length_append]
    exact Nat.lt_add_right _ (ih off ho)
  | reference v _ _ _ ih =>
    intro off ho
    rw [List.length_append, List.length_cons, wordBytes, List.length_cons, List.length_singleton]
    rcases List.mem_append.mp ho with ho | ho
    · exact Nat.lt_add_right _ (ih off ho)
    · rw [List.mem_singleton.mp ho]
      omega

theorem patchWord_append_left (more : List Byte) {off : Nat} (v : Word) (h : off + 1 < buf.length) :
    patchWord (buf ++ more) off v = patchWord buf off v ++ more := by
  rw [patchWord, patchWord, List.set_append_left _ _ (Nat.lt_of_succ_lt h),
    List.set_append_left _ _ (by rwa [List.length_set])]

theorem patchWord_append_operand (buf : List Byte) (op : Byte) (v w : Word) :
    patchWord (buf ++ op :: wordBytes v) (buf.length + 1) w = buf ++ op :: wordBytes w := by
  rw [patchWord, List.set_append_right _ _ (Nat.le_add_right _ 1), List.set_append_right _ _ (Nat.le_add_right _ 2),
    Nat.add_sub_cancel_left, Nat.add_sub_cancel_left]
  rfl

/-- An operand word is that of its own instruction alone, so what is overwritten is that instruction with another
address. -/
theorem WholeInstrs.patch (h : WholeInstrs buf offs) {off : Nat} (hoff : off ∈ offs) (w : Word) :
    WholeInstrs (patchWord buf off w) offs := by
  induction h with
  | nil => exact absurd hoff List.not_mem_nil
  | instr h hwf ih =>
    rw [patchWord_append_left _ w (h.add_one_lt off hoff)]
    exact (ih hoff).instr hwf
  | @reference buf _ op _ v h hrow hf ih =>
    rcases List.mem_append.mp hoff with ho | ho
    · rw [patchWord_append_left _ w (h.add_one_lt off ho), ← length_patchWord buf off w]
      exact (ih ho).reference v hrow hf
    · rw [List.mem_singleton.mp ho, patchWord_append_operand]
      exact h.reference w hrow hf

theorem WholeInstrs.passTwo {labels : List (Text × Word)} {unres : List (Nat × Text)} {out : List Byte}
    (h : WholeInstrs buf offs) (hunres : ∀ r ∈ unres, r.1 ∈ offs) (hout : passTwo labels unres buf = .ok out) :
    WholeInstrs out offs := by
  induction unres generalizing buf with
  | nil =>
    cases hout
    exact h
  | cons r rest ih =>
    obtain ⟨v, -, hrest⟩ := passTwo_cons_ok hout
    obtain ⟨hr, hunres⟩ := List.forall_mem_cons.mp hunres
    exact ih (h.patch hr v) hunres hrest

end WholeInstrs

/-! ### The instruction being assembled -/

/-- Whatever operands the expected states accept, the opcode accumulator ends as an opcode byte of a row whose format
has the immediate bytes that were read: those of `format` so far, and of at most one immediate. -/
def completes (pairs : List (Text × Byte)) (states : List ExpectedState) (op : Byte) (format : Format) : Bool :=
  match states with
  | [] => (findRow op).any fun row => row.format == format
  | .comma :: q => completes pairs q op format
  | .destinationRegister :: q => registerTable.all fun row => completes pairs q (op ||| row.2 <<< 3) format
  | .sourceRegister :: q => registerTable.all fun row => completes pairs q (op ||| row.2) format
  | .registerPair :: q => pairs.all fun row => completes pairs q (op ||| row.2 <<< 4) format
  | .immediate8 :: q => format == .f1 && completes pairs q op .f2
  | .immediate16 :: q => format == .f1 && completes pairs q op .f3
  | .rstImmediate :: q => (List.range 8).all fun v => completes pairs q (op ||| BitVec.ofNat 8 v <<< 3) format
  | .search :: _ | .colon :: _ | .append :: _ => false

/-- The mnemonic table against the opcode map: every way to read the operands of an entry ends in an instruction (rules
R86, R280). -/
theorem completes_states : ∀ e ∈ mnemonicTable, completes e.pairs e.states e.base .f1 = true := by
  decide +kernel

/-- The immediate bytes read so far, and the references after those in `buf`: none, a byte, a word, or a word that is
left to pass 2 (rules R297, R298). -/
inductive ImmediateRead (buf : List Byte) : List Nat → Format → List Byte → Prop
  | none {offs : List Nat} (h : WholeInstrs buf offs) : ImmediateRead buf offs .f1 []
  | byte {offs : List Nat} (v : Byte) (h : WholeInstrs buf offs) : ImmediateRead buf offs .f2 [v]
  | word {offs : List Nat} (v : Word) (h : WholeInstrs buf offs) : ImmediateRead buf offs .f3 (wordBytes v)
  | reference {offs : List Nat} (h : WholeInstrs buf offs) :
      ImmediateRead buf (offs ++ [buf.length + 1]) .f3 (wordBytes 0)

/-- With an opcode byte of their format the immediate bytes make an instruction. -/
theorem ImmediateRead.commit {buf imm : List Byte} {offs : List Nat} {format : Format} {op : Byte} {row : OpcodeRow}
    (h : ImmediateRead buf offs format imm) (hrow : findRow op = some row) (hf : row.format = format) :
    WholeInstrs (buf ++ op :: imm) offs := by
  cases h with
  | none h => simpa [hf, operandBytesOf] using h.row hrow 0 0
  | byte v h => simpa [hf, operandBytesOf] using h.row hrow v 0
  | word v h => simpa [hf, operandBytesOf] using h.row hrow 0 v
  | reference h => exact h.reference 0 hrow hf

/-- Before its immediate is read an instruction has no part in the buffer or in the references. -/
theorem ImmediateRead.whole {buf imm : List Byte} {offs : List Nat} (h : ImmediateRead buf offs .f1 imm) :
    WholeInstrs buf offs := by
  cases h with
  | none h => exact h

theorem exists_row_of_lookupText {table : List (Text × Byte)} {key : Text} {v : Byte}
    (h : lookupText table key = some v) : ∃ row ∈ table, row.2 = v := by
  induction table with
  | nil => cases h
  | cons row rest ih =>
    rw [lookupText] at h
    split at h
    · exact ⟨row, List.mem_cons_self, Option.some.inj h⟩
    · obtain ⟨row', hmem, hv⟩ := ih h
      exact ⟨row', List.mem_cons_of_mem _ hmem, hv⟩

theorem hexValUpTo_le {bound n : Nat} {x : Text} (h : hexValUpTo bound x = some n) : n ≤ bound := by
  rw [hexValUpTo] at h
  split at h
  · split at h
    · next hle =>
      cases h
      exact hle
    · cases h
  · cases h

/-- An operand that is accepted is one of those that were accounted for. -/
theorem Accepts.completes_of_operand {st : ExpectedState} {q : List ExpectedState} {s s' : EncoderState} {tok : Token}
    {e : MnemonicEntry} {format : Format} (h : Accepts st s tok s') (hcur : s.cur = some e)
    (hc : completes e.pairs (st :: q) s.accOp format = true)
    (hread : ImmediateRead s.buf (s.unres.map Prod.fst) format s.accImm) :
    ∃ format', completes e.pairs q s'.accOp format' = true ∧
      ImmediateRead s'.buf (s'.unres.map Prod.fst) format' s'.accImm := by
  cases h with
  | mnemonic | label | emptyLine | colon | commit =>
    rw [completes] at hc
    cases hc
  | comma =>
    rw [completes] at hc
    exact ⟨format, hc, hread⟩
  | destination hx | source hx =>
    rw [completes, List.all_eq_true] at hc
    obtain ⟨row, hrow, rfl⟩ := exists_row_of_lookupText hx
    exact ⟨format, hc row hrow, hread⟩
  | pair hx =>
    rw [completes, List.all_eq_true] at hc
    have hpairs : s.acceptedPairs = e.pairs := by rw [EncoderState.acceptedPairs.eq_def, hcur]
    obtain ⟨row, hrow, rfl⟩ := exists_row_of_lookupText (hpairs ▸ hx)
    exact ⟨format, hc row hrow, hread⟩
  | restart hx =>
    rw [completes, List.all_eq_true] at hc
    exact ⟨format, hc _ (List.mem_range.mpr (Nat.lt_succ_of_le (hexValUpTo_le hx))), hread⟩
  | immediate8 =>
    rw [completes, Bool.and_eq_true, beq_iff_eq] at hc
    obtain ⟨rfl, hc⟩ := hc
    exact ⟨.f2, hc, .byte _ hread.whole⟩
  | immediate16 =>
    rw [completes, Bool.and_eq_true, beq_iff_eq] at hc
    obtain ⟨rfl, hc⟩ := hc
    exact ⟨.f3, hc, .word _ hread.whole⟩
  | reference =>
    rw [completes, Bool.and_eq_true, beq_iff_eq] at hc
    obtain ⟨rfl, hc⟩ := hc
    refine ⟨.f3, hc, ?_⟩
    rw [List.map_append]
    exact .reference hread.whole

/-! ### The invariant of pass 1 -/

/-- Between two instructions the buffer is whole instructions; within one, so is it with the instruction, however its
operands go on (rules R290 to R300). -/
inductive Assembling (s : EncoderState) : Prop
  | between (hq : s.queue = [.search] ∨ s.queue = [.colon]) (hbuf : WholeInstrs s.buf (s.unres.map Prod.fst))
  | within {q : List ExpectedState} {e : MnemonicEntry} {format : Format} (hq : s.queue = q ++ [.append])
      (hcur : s.cur = some e) (hc : completes e.pairs q s.accOp format = true)
      (hread : ImmediateRead s.buf (s.unres.map Prod.fst) format s.accImm)

theorem Assembling.initial (cfg : Config) : Assembling (.initial cfg) := .between (.inl rfl) .nil

theorem endsQueue_of_completes {pairs : List (Text × Byte)} {st : ExpectedState} {q : List ExpectedState} {op : Byte}
    {format : Format} (h : completes pairs (st :: q) op format = true) : st.endsQueue = false := by
  cases st with
  | search | colon | append => cases h
  | _ => rfl

theorem Assembling.step {s s' : EncoderState} {t : PosToken} (h : Assembling s) (hstep : passOneStep s t = .ok s') :
    Assembling s' := by
  obtain ⟨st, q, hq, hacc⟩ := passOneStep_ok hstep
  generalize t.tok = tok at hacc
  cases h with
  | between hfront hbuf =>
    rw [hq] at hfront
    obtain hfront | hfront := hfront
    · cases hfront
      cases hacc with
      | mnemonic hx => exact .within rfl rfl (completes_states _ (mem_mnemonicTable hx)) (.none hbuf)
      | label => exact .between (.inr rfl) hbuf
      | emptyLine => exact .between (.inl rfl) hbuf
    · cases hfront
      cases hacc with
      | colon => exact .between (.inl rfl) hbuf
  | @within q' e format hfront hcur hc hread =>
    rw [hq] at hfront
    cases q' with
    | nil =>
      cases hfront
      obtain ⟨row, hrow, hf⟩ := (Option.any_eq_true ..).mp hc
      cases hacc with
      | commit => exact .between (.inl rfl) (hread.commit hrow (beq_iff_eq.mp hf))
    | cons st' q' =>
      cases hfront
      obtain ⟨hqueue, hcur', -, -⟩ := hacc.keeps_of_operand (endsQueue_of_completes hc)
      obtain ⟨format', hc', hread'⟩ := hacc.completes_of_operand hcur hc hread
      exact .within hqueue (hcur'.trans hcur) hc' hread'

theorem Assembling.whole {s : EncoderState} (h : Assembling s) (hq : s.queue = [.search]) :
    WholeInstrs s.buf (s.unres.map Prod.fst) := by
  cases h with
  | between _ hbuf => exact hbuf
  | @within q _ _ hfront =>
    rw [hq] at hfront
    cases (List.append_inj_right' (s₁ := []) hfront rfl)

/-! ### The whole encoder -/

theorem passOne_whole {cfg : Config} {toks : List PosToken} {s : EncoderState} (h : passOne cfg toks = .ok s) :
    WholeInstrs s.buf (s.unres.map Prod.fst) := by
  obtain ⟨hrun, hq⟩ := passOne_ok h
  exact (passOneTokens_keeps (P := Assembling) (fun _ _ _ => .step) (.initial cfg) hrun).whole hq

/-- What assembles passed both passes. -/
theorem assembleWith_ok {cfg : Config} {toks : List PosToken} {code : List Byte}
    (h : assembleWith cfg toks = .ok code) :
    ∃ s, passOne cfg toks = .ok s ∧ passTwo s.labels s.unres s.buf = .ok code := by
  cases hone : passOne cfg toks with
  | error e =>
    rw [assembleWith_of_passOne_error hone] at h
    cases h
  | ok s => exact ⟨s, rfl, assembleWith_of_passOne_ok hone ▸ h⟩

theorem assembleWith_whole {cfg : Config} {toks : List PosToken} {code : List Byte}
    (h : assembleWith cfg toks = .ok code) : ∃ is : List Instr, (∀ i ∈ is, i.wf = true) ∧ code = is.flatMap encode := by
  obtain ⟨s, hone, htwo⟩ := assembleWith_ok h
  exact ((passOne_whole hone).passTwo (fun r hr => List.mem_map_of_mem hr) htwo).exists_instrs

/-- What assembles fits the space from the origin to the address limit (rule R316). -/
theorem assembleWith_length {cfg : Config} {toks : List PosToken} {code : List Byte}
    (h : assembleWith cfg toks = .ok code) : cfg.codeOrigin.toNat + code.length ≤ addressLimit := by
  obtain ⟨s, hone, htwo⟩ := assembleWith_ok h
  obtain ⟨-, haddr, hlimit⟩ := EncoderState.wf_iff.mp (passOne_wf hone)
  rwa [passTwo_length htwo, ← haddr]

end Sys2Proof.Machine
end

section
/-! SUPPORT. The statements of the family 49_encoder.md, settled. -/

namespace Sys2Proof.Machine

/-- Settles O52: a text of hex digits has its value in one of the two forms and none in the other. -/
theorem hexLiteralsRoundTrip : Obligations.HexLiteralsRoundTrip := by
  refine ⟨fun w => ⟨?_, hexVal_hexText16 w⟩, fun digits n hne h => ?_⟩
  · exact classify_of_hexVal (lowercase_prefixed_ne (List.cons_ne_nil _ _)) (hexVal_hexText16 w)
      (Nat.le_of_lt_succ w.isLt)
  have hpre := hexVal_prefixed hne h
  have hsuf := hexVal_suffixed hne h
  have hlowPre := lowercase_prefixed_ne hne
  have hlowSuf := lowercase_suffixed_ne digits
  refine ⟨hpre, hsuf, fun hn => ?_, fun hn => ?_⟩
  · exact ⟨classify_of_hexVal hlowPre hpre hn, classify_of_hexVal hlowSuf hsuf hn⟩
  · have hbig := fits16_eq_false hn
    exact ⟨classify_of_not_fits hlowPre (prefixedValue_prefixed hne h ▸ hbig) (suffixedValue_prefixed hne h ▸ rfl),
      classify_of_not_fits hlowSuf (prefixedValue_suffixed h ▸ rfl) (suffixedValue_suffixed hne h ▸ hbig)⟩

/-- Settles O54, from the invariants of pass 1 and the words that pass 2 writes. -/
theorem assembledProgramDecodes : Obligations.AssembledProgramDecodes :=
  fun _ _ h => ⟨Nat.le_of_add_le_add_left (assembleWith_length h), assembleWith_whole h⟩

/-- Settles O55, one line at a time; the address written is the one the name was declared with last. -/
theorem labelReferences : Obligations.LabelReferences := by
  refine fun x toks hx => ⟨?_, ?_, ?_, ?_⟩
  · have hlines := ((ReadsLines.start.referenceLine (m := ['J', 'M', 'P']) rfl x (by decide)).label hx
      (by decide)).emptyLine
    exact fun htoks => (hlines.assemble htoks).trans (passTwo_cons (lookupText_declareLabel [] x 0xC003))
  · have hlines := (ReadsLines.start.label hx (by decide)).referenceLine (m := ['j', 'm', 'p']) rfl x (by decide)
    exact fun htoks => (hlines.assemble htoks).trans (passTwo_cons (lookupText_declareLabel [] x 0xC000))
  · have hlines := (((ReadsLines.start.label hx (by decide)).plainLine (x := ['N', 'O', 'P']) rfl (by decide)).label hx
      (by decide)).referenceLine (m := ['C', 'A', 'L', 'L']) rfl x (by decide)
    exact fun htoks =>
      (hlines.assemble htoks).trans (passTwo_cons (lookupText_declareLabel (declareLabel [] x 0xC000) x 0xC001))
  · have hlines := ReadsLines.start.referenceLine (m := ['j', 'm', 'p']) rfl x (by decide)
    exact fun htoks => (hlines.assemble htoks).trans (passTwo_missing 1 rfl)

/-- Settles O56, from what one reference writes and what the later ones leave. -/
theorem passTwoResolvesReferences : Obligations.PassTwoResolvesReferences := by
  refine ⟨fun labels unres buf hdef hin hapart => ?_, fun _ _ after off _ buf hbefore hname => ?_,
    fun _ _ _ => assembleWith_of_passOne_error⟩
  · obtain ⟨out, hout⟩ := passTwo_ok labels buf hdef
    refine ⟨out, hout, passTwo_length hout, fun r hr v hv => ?_, fun _ => passTwo_other hout⟩
    exact ⟨_, _, halves_hiByte_loByte v, passTwo_reference hout hin hapart r hr v hv⟩
  · exact passTwo_first_missing after off buf hbefore hname

/-- Settles O57, from what the rule of the state in front accepts. -/
theorem encoderKeepsItsInvariant : Obligations.EncoderKeepsItsInvariant :=
  fun cfg => ⟨EncoderState.initial_wf cfg, fun _ _ _ => passOneStep_wf⟩

/-- Settles O58, since the tokens of a text end with a line. -/
theorem textNeverMissesATerminator : Obligations.TextNeverMissesATerminator :=
  fun _ _ h => assembleTextWith_error h rfl

end Sys2Proof.Machine
end

section
/-! SUPPORT. The host's operations on whole arrays, cell by cell: a list of writes, a program image and an undone
record of changes (rules R342, R346). -/

namespace Sys2Proof.Machine

/-! ### A list of writes -/

/-- A cell holds `v` after a list of writes when every write to it is of `v` and, unless it held `v` before, there is
one. -/
theorem Memory.read_writeAll {size j : Nat} {v : Byte} {m : Memory} {cells : List Host.Cell} (h : m.wf size = true)
    (hc : ∀ cell ∈ cells, cell.1 < size) (hv : ∀ cell ∈ cells, cell.1 = j → cell.2 = v)
    (hj : m.read j ≠ v → j ∈ cells.map Prod.fst) : (m.writeAll cells).read j = v := by
  induction cells generalizing m with
  | nil => exact not_imp_comm.mp hj List.not_mem_nil
  | cons cell rest ih =>
    obtain ⟨k, w⟩ := cell
    rw [List.forall_mem_cons] at hc hv
    refine ih (Memory.write_wf h hc.1 w) hc.2 hv.2 fun hne => ?_
    rw [Memory.read_write h] at hne
    split at hne
    · next hjk => exact absurd (hv.1 hjk.symm) hne
    · next hjk => exact (List.mem_cons.mp (hj hne)).resolve_left hjk

/-! ### A program image -/

/-- The cells of a program image that begins at `index`. -/
def imageCells (index : Nat) (code : List Byte) : List Host.Cell := (code.zipIdx index).map Prod.swap

theorem mem_imageCells {index : Nat} {code : List Byte} {cell : Host.Cell} :
    cell ∈ imageCells index code ↔ index ≤ cell.1 ∧ code[cell.1 - index]? = some cell.2 := by
  obtain ⟨j, v⟩ := cell
  rw [imageCells, List.mem_map_swap, List.mk_mem_zipIdx_iff_le_and_getElem?_sub]

theorem imageCells_bounds {index : Nat} {code : List Byte} {cell : Host.Cell} (h : cell ∈ imageCells index code) :
    index ≤ cell.1 ∧ cell.1 < index + code.length := by
  obtain ⟨hle, hget⟩ := mem_imageCells.mp h
  obtain ⟨hlt, -⟩ := List.getElem?_eq_some_iff.mp hget
  omega

/-- An image that fits the memory array is stored, and only memory differs (rule R342). -/
theorem State.storeImage_ok (s : State) {index : Nat} {code : List Byte} (hfit : index + code.length ≤ memCells) :
    s.storeImage index code = .ok (s.setMem (s.mem.writeAll (imageCells index code))) := by
  induction code generalizing s index with
  | nil => rfl
  | cons v rest ih =>
    rw [List.length_cons] at hfit
    rw [State.storeImage, State.busSet8_inside (space := .mem) s (by simp only [Space.cells]; omega)]
    exact ih _ (by omega)

/-- Byte `k` of a stored image stands `k` cells after the first (rule R342). -/
theorem Memory.read_image {size index k : Nat} {m : Memory} {code : List Byte} (h : m.wf size = true)
    (hfit : index + code.length ≤ size) (hk : k < code.length) :
    (m.writeAll (imageCells index code)).read (index + k) = code[k] := by
  have hget : ∀ {v}, (index + k, v) ∈ imageCells index code ↔ code[k] = v := by
    simp [mem_imageCells, hk]
  refine Memory.read_writeAll h (fun _ hc => (imageCells_bounds hc).2.trans_le hfit) ?_
    fun _ => List.mem_map_of_mem (hget.mpr rfl)
  rintro ⟨_, v⟩ hc rfl
  exact (hget.mp hc).symm

/-- A stored image changes none of the cells outside it (rule R342). -/
theorem Memory.read_outside_image {size index j : Nat} {m : Memory} {code : List Byte} (h : m.wf size = true)
    (hfit : index + code.length ≤ size) (hj : j < index ∨ index + code.length ≤ j) :
    (m.writeAll (imageCells index code)).read j = m.read j := by
  refine Memory.read_writeAll h (fun _ hc => (imageCells_bounds hc).2.trans_le hfit) ?_ (absurd rfl)
  rintro cell hc rfl
  have := imageCells_bounds hc
  omega

/-! ### An undone record of changes -/

section undoCells
variable {cells : Nat} {old new : Memory}

/-- What a record lists: the old array's listed cells that differ, and the fill byte for the new array's other ones. -/
theorem Memory.mem_undoCells {cell : Host.Cell} :
    cell ∈ Memory.undoCells old new ↔
      (cell ∈ old ∧ new.read cell.1 ≠ cell.2) ∨
        ((∃ w, (cell.1, w) ∈ new) ∧ old.read cell.1 = fillByte ∧ cell.2 = fillByte) := by
  obtain ⟨j, v⟩ := cell
  simp only [Memory.undoCells, List.mem_append, List.mem_filter, List.mem_map, bne_iff_ne, beq_iff_eq, Prod.exists,
    Prod.mk.injEq]
  refine or_congr_right ⟨?_, ?_⟩
  · rintro ⟨k, w, ⟨hmem, hfill⟩, rfl, rfl⟩
    exact ⟨⟨w, hmem⟩, hfill, rfl⟩
  · rintro ⟨⟨w, hmem⟩, hfill, rfl⟩
    exact ⟨j, w, ⟨hmem, hfill⟩, rfl, rfl⟩

/-- A record holds bytes of the old array alone (log entry 12). -/
theorem Memory.undoCells_old (ho : old.wf cells = true) :
    ∀ cell ∈ Memory.undoCells old new, old.read cell.1 = cell.2 := by
  intro cell hc
  obtain ⟨hmem, -⟩ | ⟨-, hfill, hv⟩ := Memory.mem_undoCells.mp hc
  · exact (Memory.read_of_mem ho hmem).1
  · exact hfill.trans hv.symm

/-- A record holds every cell that differs. -/
theorem Memory.undoCells_complete {j : Nat} (hj : new.read j ≠ old.read j) :
    (j, old.read j) ∈ Memory.undoCells old new := by
  by_cases hold : old.read j = fillByte
  · exact Memory.mem_undoCells.mpr (.inr ⟨⟨_, Memory.mem_of_read (hold ▸ hj)⟩, hold, hold⟩)
  · exact Memory.mem_undoCells.mpr (.inl ⟨Memory.mem_of_read hold, hj⟩)

theorem Memory.writeAll_undoCells (ho : old.wf cells = true) (hn : new.wf cells = true) :
    new.writeAll (Memory.undoCells old new) = old := by
  have hlt := Memory.undoCells_lt ho hn
  refine Memory.ext (Memory.writeAll_wf _ hn hlt) ho fun j =>
    Memory.read_writeAll hn hlt ?_ fun hj => List.mem_map_of_mem (Memory.undoCells_complete hj)
  rintro cell hc rfl
  exact (Memory.undoCells_old ho cell hc).symm

end undoCells

/-- The changes between two canonical states take the new one back to the old one (rule R346). -/
theorem Changes.apply_diff {s t : State} (hs : s.wf = true) (ht : t.wf = true) : (s.diff t).apply t = s := by
  obtain ⟨hsm, hsi⟩ := State.wf_iff.mp hs
  obtain ⟨htm, hti⟩ := State.wf_iff.mp ht
  rw [State.diff, Changes.apply, Memory.writeAll_undoCells hsm htm, Memory.writeAll_undoCells hsi hti]

/-- However a step ends, a fault included, the state it leaves is canonical. -/
theorem execute_left_wf {s : State} (h : s.wf = true) : (execute s).left.wf = true := by
  by_cases hpc : config.haltBoundary ≤ s.pc.toNat
  · rw [execute_boundary hpc]
    exact h
  · have hpc' := Nat.lt_of_not_le hpc
    cases hrow : findRow (s.memRead8 s.pc) with
    | none =>
      rw [execute_undefined hpc' ((findRow_none_iff _).mp hrow)]
      exact h
    | some row =>
      obtain ⟨pc, hs₂⟩ := State.fetchOperands_state ((s.setLastResult .cont).setPc (s.pc + 1)) row
        (s.memRead8 s.pc)
      rw [execute_row hpc' hrow]
      dsimp only
      rw [hs₂]
      obtain ⟨t, ht⟩ := exec_next _ _
      rw [ht]
      exact exec_wf (s := (s.setLastResult .cont).setPc pc) h ht

end Sys2Proof.Machine
end

section
/-! SUPPORT. The statements of the family 60_exceptions.md, settled. -/

namespace Sys2Proof.Machine

/-- Settles O59: the load stores the image at the code origin, where it fits, and changes only memory. -/
theorem loadImagePlacesProgram : Obligations.LoadImagePlacesProgram := by
  intro s code h hlen
  obtain ⟨hm, hio⟩ := State.wf_iff.mp h
  have hfit : 0xC000 + code.length ≤ memCells := by
    unfold memCells
    omega
  refine ⟨_, s.storeImage_ok hfit, State.wf_iff.mpr ⟨?_, hio⟩, fun k hk => ?_,
    fun _ => Memory.read_outside_image hm hfit, rfl⟩
  · exact Memory.writeAll_wf _ hm fun _ hc => (imageCells_bounds hc).2.trans_le hfit
  · exact (congrArg some (Memory.read_image hm hfit hk)).trans (List.getElem?_eq_getElem hk).symm

/-- Settles O60: a step leaves a canonical state, and changes between canonical states can be undone. -/
theorem undoRestoresTheState : Obligations.UndoRestoresTheState :=
  fun _ h => Changes.apply_diff h (execute_left_wf h)

end Sys2Proof.Machine
end

section
/-! SUPPORT. The statement of the family 70_reset_and_hazards.md, settled. -/

namespace Sys2Proof.Machine

/-- Creation takes the two arrays as they are given (rule R360). -/
theorem State.launch_wf {cfg : Config} {mem io : Memory} (hm : mem.wf memCells = true)
    (hio : io.wf ioCells = true) : (State.launch cfg mem io).wf = true :=
  State.wf_iff.mpr ⟨hm, hio⟩

/-- Settles O13: reset is the creation with two empty arrays, which list no cell. -/
theorem resetMeetsInvariant : Obligations.ResetMeetsInvariant :=
  State.launch_wf (Memory.nil_wf memCells) (Memory.nil_wf ioCells)

end Sys2Proof.Machine
end
